-- ==== Sys2Proof/Word.lean ====
section
/-! DEFINITION. The word widths of the IPE: a register is 32 bits (10_state.md R23), a sample, a plane cell and a
colour channel are 8 bits (00_scope.md R8, R15); and the colour, a triple of channels. -/

namespace Sys2Proof

/-- A 32-bit register or command word (R23, R31). Bit 0 is the least significant (R10). -/
abbrev Word := BitVec 32

/-- One byte: a plane cell (R46-R48) or one colour channel (R15). -/
abbrev Byte := BitVec 8

/-- A colour `(R, G, B)` of three 8-bit channels (00_scope.md R15). -/
structure Color where
  r : Byte
  g : Byte
  b : Byte
  deriving DecidableEq, Repr, Inhabited

end Sys2Proof
end

