-- ==== Sys2Proof/Syntax.lean ====
section
/-! DEFINITION. The command block (30_encoding.md R85) and the fifteen commands of the opcode table (R101), one
constructor each, with the operands their formats carry (R90-R100). -/

namespace Sys2Proof

/-- A command block: eight 32-bit words CMD0..CMD7 (R85, 10_state.md R31). -/
structure CmdBlock where
  w0 : Word
  w1 : Word
  w2 : Word
  w3 : Word
  w4 : Word
  w5 : Word
  w6 : Word
  w7 : Word
  deriving DecidableEq, Repr

/-- A slot field (R87): NULL ("no image supplied"), or a slot number 0..14. Whether a number names a slot of the
machine or is BADSLOT depends on NSLOT, and is decided where the command checks its slots (`slotRef`). -/
inductive SlotArg where
  | null
  | slot (n : Nat)
  deriving DecidableEq, Repr

/-- The box operand of OPTTHRESH: four signed 16-bit bounds, lower inclusive, upper exclusive (R97). -/
structure BoxArg where
  x0 : BitVec 16
  y0 : BitVec 16
  x1 : BitVec 16
  y1 : BitVec 16
  deriving DecidableEq, Repr

/-- The fifteen commands (R101). A field keeps the bits its format gives it; the meaning reads it as signed,
unsigned or binary32 (R89). -/
inductive Instr where
  /-- 2-D integer convolution (format F, R92) -/
  | filter (sa sb : SlotArg) (k : Byte) (factor bias : Word)
  /-- per-channel minimum (format W, R91) -/
  | erode (sa sb : SlotArg) (k : Byte)
  /-- per-channel maximum (format W) -/
  | dilate (sa sb : SlotArg) (k : Byte)
  /-- morphological edge (format W) -/
  | edge (sa sb : SlotArg) (k : Byte)
  /-- contour (format N, R90) -/
  | contour (sa sb : SlotArg)
  /-- separable Gaussian blur (format G, R93) -/
  | gaussblur (sa sb : SlotArg) (radius : Word)
  /-- unsharp mask (format U, R94) -/
  | unsharp (sa sb : SlotArg) (radius amount threshold : Word)
  /-- selective Gaussian blur (format S, R95) -/
  | selblur (sa sb : SlotArg) (radius : Word) (threshold : Byte)
  /-- median filter (format W) -/
  | median (sa sb : SlotArg) (k : Byte)
  /-- 2-D Fourier transform (format X, R96) -/
  | fft2 (sa sb sc sd : SlotArg) (inv pow2 mag : Bool)
  /-- optimal histogram threshold (format O, R97) -/
  | optthresh (sa sb : SlotArg) (method : BitVec 3) (box : Option BoxArg)
  /-- adaptive block threshold (format A, R98) -/
  | adaptthresh (sa sb sc : SlotArg) (method : BitVec 3) (boxSize bias balance : Word)
  /-- binarize against a mask (format N) -/
  | threshmask (sa sb sc : SlotArg)
  /-- seeded flood fill (format L, R99) -/
  | floodfill (sa : SlotArg) (trackSel : Bool) (x0 y0 : BitVec 16) (color : Color)
      (index tolerance opacity level : Byte)
  /-- Moore boundary trace (format T, R100) -/
  | trace (sa sb : SlotArg) (target traceColor : Color)
  deriving DecidableEq, Repr

end Sys2Proof
end

