-- ==== Sys2Proof/WellFormed.lean ====
section
/-! DEFINITION. Which terms of the syntax some command block encodes: a slot number is a field
value other than NULL's 0xF (30_encoding.md R87). Every other operand is as wide as its field. -/

namespace Sys2Proof

/-- A slot number is a field value below 0xF (R87). -/
def SlotArg.wf : SlotArg → Bool
  | .null => true
  | .slot n => decide (n ≤ 14)

/-- Every slot argument of the command is well-formed. -/
def Instr.wf : Instr → Bool
  | .filter sa sb _ _ _ => sa.wf && sb.wf
  | .erode sa sb _ => sa.wf && sb.wf
  | .dilate sa sb _ => sa.wf && sb.wf
  | .edge sa sb _ => sa.wf && sb.wf
  | .contour sa sb => sa.wf && sb.wf
  | .gaussblur sa sb _ => sa.wf && sb.wf
  | .unsharp sa sb _ _ _ => sa.wf && sb.wf
  | .selblur sa sb _ _ => sa.wf && sb.wf
  | .median sa sb _ => sa.wf && sb.wf
  | .fft2 sa sb sc sd _ _ _ => sa.wf && sb.wf && sc.wf && sd.wf
  | .optthresh sa sb _ _ => sa.wf && sb.wf
  | .adaptthresh sa sb sc _ _ _ _ => sa.wf && sb.wf && sc.wf
  | .threshmask sa sb sc => sa.wf && sb.wf && sc.wf
  | .floodfill sa _ _ _ _ _ _ _ _ => sa.wf
  | .trace sa sb _ _ => sa.wf && sb.wf

end Sys2Proof
end

