-- ==== Sys2Proof/Decode.lean ====
section
/-! DEFINITION. The decoder of command blocks (30_encoding.md R86-R105): total, refusing by name; after it the
encoder, written from the same tables. -/

namespace Sys2Proof

/-- Why a block is no command. Each is IllegalCommand (60_exceptions.md R282, group 1), in this order. -/
inductive DecodeError where
  /-- an OPC value not in R101 (R104) -/
  | illegalOpcode
  /-- a slot field the opcode does not use holds a value other than 0xF (R105) -/
  | reservedSlotField
  /-- a FLG bit the opcode does not define is set (R105) -/
  | reservedFlag
  deriving DecidableEq, Repr

/-- The fields of CMD0 (R86). -/
structure CmdFields where
  opc : Byte
  sa : BitVec 4
  sb : BitVec 4
  sc : BitVec 4
  sd : BitVec 4
  flg : Byte
  deriving DecidableEq, Repr

/-- CMD0 split into its fields (R86). -/
def cmdFields (w : Word) : CmdFields where
  opc := w.extractLsb' 0 8
  sa := w.extractLsb' 8 4
  sb := w.extractLsb' 12 4
  sc := w.extractLsb' 16 4
  sd := w.extractLsb' 20 4
  flg := w.extractLsb' 24 8

/-- A slot field: 0xF is NULL, every other value a slot number (R87). -/
def slotArg (f : BitVec 4) : SlotArg := if f = 0xF#4 then .null else .slot f.toNat

/-- A colour operand: R in [7:0], G in [15:8], B in [23:16] (R89). -/
def rgbArg (w : Word) : Color := ⟨w.extractLsb' 0 8, w.extractLsb' 8 8, w.extractLsb' 16 8⟩

/-- The low half of a word, an s16 operand (R97, R99). -/
def loHalf (w : Word) : BitVec 16 := w.extractLsb' 0 16

/-- The high half of a word, an s16 operand (R97, R99). -/
def hiHalf (w : Word) : BitVec 16 := w.extractLsb' 16 16

/-- The checks of R105 on CMD0: each slot field in `unused` must be 0xF, then every FLG bit outside `defined` must
be 0; the command of a block that passes is `i`. -/
def checked (f : CmdFields) (unused : List (BitVec 4)) (defined : Byte) (i : Instr) : Except DecodeError Instr :=
  if unused.any (fun u => u != 0xF#4) then .error .reservedSlotField
  else if f.flg &&& ~~~defined != 0#8 then .error .reservedFlag
  else .ok i

/-- The command a block encodes (R85-R105). Words and bits the format does not use are ignored. -/
def decode (c : CmdBlock) : Except DecodeError Instr :=
  let f := cmdFields c.w0
  let a := slotArg f.sa
  let b := slotArg f.sb
  let k : Byte := c.w1.extractLsb' 0 8
  let method : BitVec 3 := c.w1.extractLsb' 0 3
  match f.opc.toNat with
  | 0x01 => checked f [f.sc, f.sd] 0#8 (.filter a b k c.w2 c.w3)
  | 0x02 => checked f [f.sc, f.sd] 0#8 (.erode a b k)
  | 0x03 => checked f [f.sc, f.sd] 0#8 (.dilate a b k)
  | 0x04 => checked f [f.sc, f.sd] 0#8 (.edge a b k)
  | 0x05 => checked f [f.sc, f.sd] 0#8 (.contour a b)
  | 0x06 => checked f [f.sc, f.sd] 0#8 (.gaussblur a b c.w1)
  | 0x07 => checked f [f.sc, f.sd] 0#8 (.unsharp a b c.w1 c.w2 c.w3)
  | 0x08 => checked f [f.sc, f.sd] 0#8 (.selblur a b c.w1 (c.w2.extractLsb' 0 8))
  | 0x09 => checked f [f.sc, f.sd] 0#8 (.median a b k)
  | 0x10 => checked f [] 7#8
      (.fft2 a b (slotArg f.sc) (slotArg f.sd) (f.flg.getLsbD 0) (f.flg.getLsbD 1) (f.flg.getLsbD 2))
  | 0x18 => checked f [f.sc, f.sd] 1#8
      (.optthresh a b method
        (if f.flg.getLsbD 0 then some ⟨loHalf c.w2, hiHalf c.w2, loHalf c.w3, hiHalf c.w3⟩ else none))
  | 0x19 => checked f [f.sd] 0#8 (.adaptthresh a b (slotArg f.sc) method c.w2 c.w3 c.w4)
  | 0x1A => checked f [f.sd] 0#8 (.threshmask a b (slotArg f.sc))
  | 0x20 => checked f [f.sb, f.sc, f.sd] 1#8
      (.floodfill a (f.flg.getLsbD 0) (loHalf c.w1) (hiHalf c.w1) (rgbArg c.w2) (c.w2.extractLsb' 24 8)
        (c.w3.extractLsb' 0 8) (c.w3.extractLsb' 8 8) (c.w3.extractLsb' 16 8))
  | 0x21 => checked f [f.sc, f.sd] 0#8 (.trace a b (rgbArg c.w1) (rgbArg c.w2))
  | _ => .error .illegalOpcode

/-- Whether a block's opcode is OPTTHRESH's or ADAPTHRESH's, which set RESULT on every failure (60_exceptions.md
R281). -/
def writesResult (c : CmdBlock) : Bool :=
  (cmdFields c.w0).opc == 0x18#8 || (cmdFields c.w0).opc == 0x19#8

/-- The field of a slot argument (R87). -/
def slotField : SlotArg → BitVec 4
  | .null => 0xF#4
  | .slot n => BitVec.ofNat 4 n

/-- CMD0 put together from its fields (R86). -/
def cmdWord (opc : Byte) (sa sb sc sd : BitVec 4) (flg : Byte) : Word :=
  flg ++ sd ++ sc ++ sb ++ sa ++ opc

/-- A command's block: unused slot fields 0xF, unused FLG bits 0, unused words 0 (R107). -/
def block (w0 : Word) (w1 w2 w3 w4 : Word := 0#32) : CmdBlock := ⟨w0, w1, w2, w3, w4, 0#32, 0#32, 0#32⟩

/-- A byte operand in bits [7:0] of its word. -/
def byteWord (b : Byte) : Word := b.setWidth 32

/-- A colour operand's word, with `top` in bits [31:24] (R99, R100). -/
def rgbWord (c : Color) (top : Byte) : Word := top ++ c.b ++ c.g ++ c.r

/-- The flags 0..2 of a command (R103). -/
def flagByte (f0 f1 f2 : Bool) : Byte :=
  (0#5 : BitVec 5) ++ (BitVec.ofBool f2 ++ BitVec.ofBool f1 ++ BitVec.ofBool f0)

/-- A same-format command's CMD0: source in SA, destination in SB (R102). -/
def cmdWord2 (opc : Byte) (sa sb : SlotArg) : Word :=
  cmdWord opc (slotField sa) (slotField sb) 0xF#4 0xF#4 0#8

/-- The words of a command (R86-R103, R107). -/
def encode : Instr → CmdBlock
  | .filter sa sb k factor bias => block (cmdWord2 0x01#8 sa sb) (byteWord k) factor bias
  | .erode sa sb k => block (cmdWord2 0x02#8 sa sb) (byteWord k)
  | .dilate sa sb k => block (cmdWord2 0x03#8 sa sb) (byteWord k)
  | .edge sa sb k => block (cmdWord2 0x04#8 sa sb) (byteWord k)
  | .contour sa sb => block (cmdWord2 0x05#8 sa sb)
  | .gaussblur sa sb radius => block (cmdWord2 0x06#8 sa sb) radius
  | .unsharp sa sb radius amount threshold => block (cmdWord2 0x07#8 sa sb) radius amount threshold
  | .selblur sa sb radius threshold => block (cmdWord2 0x08#8 sa sb) radius (byteWord threshold)
  | .median sa sb k => block (cmdWord2 0x09#8 sa sb) (byteWord k)
  | .fft2 sa sb sc sd inv pow2 mag =>
    block (cmdWord 0x10#8 (slotField sa) (slotField sb) (slotField sc) (slotField sd) (flagByte inv pow2 mag))
  | .optthresh sa sb method box =>
    match box with
    | none => block (cmdWord2 0x18#8 sa sb) (method.setWidth 32)
    | some q =>
      block (cmdWord 0x18#8 (slotField sa) (slotField sb) 0xF#4 0xF#4 1#8) (method.setWidth 32)
        (q.y0 ++ q.x0) (q.y1 ++ q.x1)
  | .adaptthresh sa sb sc method boxSize bias balance =>
    block (cmdWord 0x19#8 (slotField sa) (slotField sb) (slotField sc) 0xF#4 0#8) (method.setWidth 32)
      boxSize bias balance
  | .threshmask sa sb sc =>
    block (cmdWord 0x1A#8 (slotField sa) (slotField sb) (slotField sc) 0xF#4 0#8)
  | .floodfill sa trackSel x0 y0 color index tolerance opacity level =>
    block (cmdWord 0x20#8 (slotField sa) 0xF#4 0xF#4 0xF#4 (flagByte trackSel false false)) (y0 ++ x0)
      (rgbWord color index) (0#8 ++ level ++ opacity ++ tolerance)
  | .trace sa sb target traceColor =>
    block (cmdWord2 0x21#8 sa sb) (rgbWord target 0#8) (rgbWord traceColor 0#8)

/-- The command block whose bits are `w`, bit 0 the least significant bit of CMD0, the next word's bits counting
on from it. -/
def blockOfNat (w : Nat) : CmdBlock where
  w0 := BitVec.ofNat 32 w
  w1 := BitVec.ofNat 32 (w >>> 32)
  w2 := BitVec.ofNat 32 (w >>> 64)
  w3 := BitVec.ofNat 32 (w >>> 96)
  w4 := BitVec.ofNat 32 (w >>> 128)
  w5 := BitVec.ofNat 32 (w >>> 160)
  w6 := BitVec.ofNat 32 (w >>> 192)
  w7 := BitVec.ofNat 32 (w >>> 224)

/-- The instruction the decoder reads from a table word of `nbits` bits: every bit above `nbits` is 0. -/
def decodeTableWord (nbits w : Nat) : Option Instr :=
  (decode (blockOfNat (w % 2 ^ nbits))).toOption

end Sys2Proof
end

