-- ==== Sys2Proof/Machine/Float.lean ====
section
/-! DEFINITION. IEEE 754 binary64 arithmetic (00_scope.md R12, 40_common.md R126): every operation takes the
exact rational value and rounds it once, to nearest with ties to even, with gradual underflow. Written over
Nat and Int only, so that the kernel evaluates it on numerals. -/

namespace Sys2Proof.Machine

/-- A binary64 number. `fin neg m e` is `±m · 2^e · 2^-1074`, with `m < 2^53`, and `2^52 ≤ m` unless `e = 0`
(the form `F64.roundQ` builds). There is one NaN: which NaN bit pattern results "is not observable"
(40_common.md R126; assumption 17). -/
inductive F64 where
  | nan
  | inf (neg : Bool)
  | fin (neg : Bool) (m e : Nat)
  deriving DecidableEq, Repr

/-- `n` applied once its value is known: the same function as `k n`, spelled so that the kernel evaluates the
numeral before it goes on. -/
def withNat {α : Type} (n : Nat) (k : Nat → α) : α :=
  match n with
  | 0 => k 0
  | m + 1 => k (m + 1)

/-- The base-2 logarithm of a number below `2^(2^k)`, added to `acc`: one bit of the answer a time. -/
def log2From : Nat → Nat → Nat → Nat
  | 0, _, acc => acc
  | k + 1, n, acc =>
    withNat (n >>> 2 ^ k) fun h =>
      if h = 0 then log2From k n acc else withNat (acc + 2 ^ k) fun acc' => log2From k h acc'

/-- The base-2 logarithm, rounded down: the same function as `Nat.log2`, in few steps for the numbers that occur. -/
def log2 (n : Nat) : Nat := if n >>> 2 ^ 14 = 0 then log2From 14 n 0 else Nat.log2 n

/-- `num / d` rounded to the nearest integer, ties to even (R12). -/
def rne (num d : Nat) : Nat :=
  withNat (num / d) fun q => withNat (num % d) fun r =>
    if 2 * r < d then q else if d < 2 * r then q + 1 else q + q % 2

/-- The largest scale `e` of a finite number: the largest finite binary64 is `(2^53 - 1) · 2^2045 · 2^-1074`. -/
def F64.maxScale : Nat := 2045

/-- The binary64 nearest to `±(num / den) · 2^-1074` (ties to even; overflow goes to an infinity). -/
def F64.roundQ (neg : Bool) (num den : Nat) : F64 :=
  withNat (log2 (num / den) - 52) fun e =>
  withNat (rne num (den <<< e)) fun m =>
    if m = 2 ^ 53 then
      if F64.maxScale < e + 1 then .inf neg else .fin neg (2 ^ 52) (e + 1)
    else if F64.maxScale < e then .inf neg
    else .fin neg m e

/-- The magnitude of a finite number in units of `2^-1074`. -/
def F64.units (m e : Nat) : Nat := m <<< e

/-- The signed value of a finite number in units of `2^-1074`. -/
def F64.sunits (neg : Bool) (m e : Nat) : Int :=
  if neg then -((F64.units m e : Nat) : Int) else ((F64.units m e : Nat) : Int)

/-- `+0`. -/
def F64.zero : F64 := .fin false 0 0

/-- `f64(n)`: the exact conversion of an integer below `2^53` in magnitude (R12). -/
def F64.ofInt (n : Int) : F64 := F64.roundQ (n < 0) (n.natAbs <<< 1074) 1

/-- `f64(n)` of a natural number (R12). -/
def F64.ofNat (n : Nat) : F64 := F64.roundQ false (n <<< 1074) 1

/-- The binary64 nearest to the decimal or fraction `num / den` (used for the literals of the rules). -/
def F64.ofFrac (num den : Nat) : F64 := F64.roundQ false (num <<< 1074) den

/-- The number with its sign flipped. -/
def F64.neg : F64 → F64
  | .nan => .nan
  | .inf n => .inf (!n)
  | .fin n m e => .fin (!n) m e

/-- The magnitude `|v|`. -/
def F64.abs : F64 → F64
  | .nan => .nan
  | .inf _ => .inf false
  | .fin _ m e => .fin false m e

/-- binary64 addition (R12). A zero sum of numbers of different signs is `+0`. -/
def F64.add : F64 → F64 → F64
  | .nan, _ => .nan
  | _, .nan => .nan
  | .inf a, .inf b => if a = b then .inf a else .nan
  | .inf a, .fin _ _ _ => .inf a
  | .fin _ _ _, .inf b => .inf b
  | .fin na ma ea, .fin nb mb eb =>
    withNat (F64.units ma ea) fun a => withNat (F64.units mb eb) fun b =>
      if na = nb then F64.roundQ na (a + b) 1
      else if b < a then F64.roundQ na (a - b) 1
      else if a < b then F64.roundQ nb (b - a) 1
      else F64.zero

/-- binary64 subtraction (R12). -/
def F64.sub (x y : F64) : F64 := F64.add x (F64.neg y)

/-- binary64 multiplication (R12). -/
def F64.mul : F64 → F64 → F64
  | .nan, _ => .nan
  | _, .nan => .nan
  | .inf a, .inf b => .inf (a != b)
  | .inf a, .fin b m _ => if m = 0 then .nan else .inf (a != b)
  | .fin a m _, .inf b => if m = 0 then .nan else .inf (a != b)
  | .fin na ma ea, .fin nb mb eb =>
    F64.roundQ (na != nb) ((ma * mb) <<< (ea + eb)) (1 <<< 1074)

/-- binary64 division (R12). A nonzero number over a zero is an infinity; `0 / 0` is NaN. -/
def F64.div : F64 → F64 → F64
  | .nan, _ => .nan
  | _, .nan => .nan
  | .inf _, .inf _ => .nan
  | .inf a, .fin b _ _ => .inf (a != b)
  | .fin a _ _, .inf b => .fin (a != b) 0 0
  | .fin na ma ea, .fin nb mb eb =>
    if mb = 0 then (if ma = 0 then .nan else .inf (na != nb))
    else F64.roundQ (na != nb) (F64.units ma ea <<< 1074) (F64.units mb eb)

/-- One Newton step of the integer square root, repeated until it stops falling. -/
def isqrtFrom (n : Nat) : Nat → Nat → Nat
  | 0, x => x
  | fuel + 1, x =>
    withNat ((x + n / x) / 2) fun y => if y < x then isqrtFrom n fuel y else x

/-- The integer square root: the largest `s` with `s * s ≤ n`. The Newton iteration starts above the root
and halves its distance at least, so `log2 n + 2` steps are more than it needs. -/
def isqrt (n : Nat) : Nat :=
  if n = 0 then 0 else withNat (log2 n) fun b => isqrtFrom n (b + 2) (2 ^ (b / 2 + 1))

/-- `SQRT`: the IEEE correctly-rounded square root (R12). The root of `m · 2^(e - 1074)` in units of `2^-1074`
is the root of `m · 2^(e + 1074)`, at least `2^537` for a nonzero number; twice its integer part plus a sticky
bit decides the rounding. -/
def F64.sqrt : F64 → F64
  | .nan => .nan
  | .inf n => if n then .nan else .inf false
  | .fin n m e =>
    if m = 0 then .fin n 0 0
    else if n then .nan
    else
      withNat (m <<< (e + 1074)) fun v => withNat (isqrt v) fun s =>
        F64.roundQ false (2 * s + (if s * s = v then 0 else 1)) 2

/-- `x < y`; false when either is NaN. -/
def F64.lt : F64 → F64 → Bool
  | .nan, _ => false
  | _, .nan => false
  | .inf a, .inf b => a && !b
  | .inf a, .fin _ _ _ => a
  | .fin _ _ _, .inf b => !b
  | .fin na ma ea, .fin nb mb eb => decide (F64.sunits na ma ea < F64.sunits nb mb eb)

/-- `x = y` as numbers (`+0 = -0`); false when either is NaN. -/
def F64.eq : F64 → F64 → Bool
  | .inf a, .inf b => a == b
  | .fin na ma ea, .fin nb mb eb => decide (F64.sunits na ma ea = F64.sunits nb mb eb)
  | _, _ => false

/-- `x ≤ y`; false when either is NaN. -/
def F64.le (x y : F64) : Bool := F64.lt x y || F64.eq x y

/-- Whether the number is NaN. -/
def F64.isNaN : F64 → Bool
  | .nan => true
  | _ => false

/-- "finite (not NaN, not ±∞)" (41_convolution.md R162). -/
def F64.isFinite : F64 → Bool
  | .fin _ _ _ => true
  | _ => false

/-- `min(x, y)` of two numbers that are not NaN (40_common.md R127, 44_threshold.md R238). -/
def F64.min (x y : F64) : F64 := if F64.lt y x then y else x

/-- `max(x, y)` of two numbers that are not NaN (R127, R238). -/
def F64.max (x y : F64) : F64 := if F64.lt x y then y else x

/-- `trunc(v)` of a finite number, "toward zero" (R12); 0 for the others, to which no rule applies it. -/
def F64.trunc : F64 → Int
  | .fin n m e =>
    if n then -(((F64.units m e >>> 1074 : Nat)) : Int) else ((F64.units m e >>> 1074 : Nat) : Int)
  | _ => 0

/-- `ceil(v)` of a finite number, "toward +infinity" (R12); 0 for the others, to which no rule applies it. -/
def F64.ceil : F64 → Int
  | .fin n m e =>
    if n then -(((F64.units m e >>> 1074 : Nat)) : Int)
    else (((F64.units m e + (2 ^ 1074 - 1)) >>> 1074 : Nat) : Int)
  | _ => 0

/-- The number with the binary64 bit pattern `b` (R12 gives PI by its pattern). -/
def F64.ofBits (b : BitVec 64) : F64 :=
  let neg := b.getLsbD 63
  let ex := (b.extractLsb' 52 11).toNat
  let fr := (b.extractLsb' 0 52).toNat
  if ex = 2047 then (if fr = 0 then .inf neg else .nan)
  else if ex = 0 then .fin neg fr 0
  else .fin neg (2 ^ 52 + fr) (ex - 1)

/-- `f32to64(b)`: a binary32 field converted exactly to binary64; NaN, infinities and subnormals are converted
too (R12, 30_encoding.md R89). A binary32 subnormal `fr` is `fr · 2^-149`, that is `fr · 2^925` units. -/
def F64.ofF32 (b : BitVec 32) : F64 :=
  let neg := b.getLsbD 31
  let ex := (b.extractLsb' 23 8).toNat
  let fr := (b.extractLsb' 0 23).toNat
  if ex = 255 then (if fr = 0 then .inf neg else .nan)
  else if ex = 0 then F64.roundQ neg (fr <<< 925) 1
  else F64.roundQ neg ((2 ^ 23 + fr) <<< (924 + ex)) 1

/-- `PI`, the binary64 nearest to π (R12). -/
def F64.pi : F64 := F64.ofBits 0x400921FB54442D18#64

/-- 0.5, 1.0, 2.0 and the other binary64 literals of the rules. -/
def F64.half : F64 := F64.ofFrac 1 2

/-- 1.0. -/
def F64.one : F64 := F64.ofNat 1

/-- 2.0. -/
def F64.two : F64 := F64.ofNat 2

/-- `clampTrunc(v)` (40_common.md R127): NaN gives 0, otherwise `trunc(min(255.0, max(0.0, v)))`. -/
def clampTrunc (v : F64) : Nat :=
  if v.isNaN then 0
  else (F64.trunc (F64.min (F64.ofNat 255) (F64.max F64.zero v))).toNat

/-- `roundByte(v) = clampTrunc(v + 0.5)` (R127). -/
def roundByte (v : F64) : Nat := clampTrunc (F64.add v F64.half)

end Sys2Proof.Machine
end

