-- ==== Sys2Proof/Machine/Transcendental.lean ====
section
/-! DEFINITION. EXP, LOG, ATAN, SIN and COS as correctly rounded functions, the default 40_common.md R125 gives
these parameters (assumption 7). Each is evaluated in fixed point with `p` fractional bits together with a bound
on its error; where both ends of that bound round to one binary64 number, that number is the answer, and
otherwise the evaluation is repeated with more bits. -/

namespace Sys2Proof.Machine

/-- The working precisions, tried in order. -/
def zivPrecisions : List Nat := [256, 512, 1024, 2048]

/-- The first answer whose two bounds round alike; `f p` gives the roundings of the lower and upper bound. -/
def ziv (f : Nat → F64 × F64) : List Nat → F64
  | [] => .nan
  | p :: ps =>
    match f p with
    | (lo, hi) => if lo = hi then lo else if ps = [] then lo else ziv f ps

/-- The two roundings of `±(a ∓ err) / 2^p`. -/
def fixBounds (neg : Bool) (a err p : Nat) : F64 × F64 :=
  (F64.roundQ neg ((a - err) <<< 1074) (1 <<< p), F64.roundQ neg ((a + err) <<< 1074) (1 <<< p))

/-- `Σ t^i / i!` in fixed point, from the term `term = t^i / i!` on. -/
def expSum (p t : Nat) : Nat → Nat → Nat → Nat → Nat
  | 0, _, _, acc => acc
  | fuel + 1, i, term, acc =>
    if term = 0 then acc
    else withNat (((term * t) >>> p) / (i + 1)) fun term' =>
      withNat (acc + term) fun acc' => expSum p t fuel (i + 1) term' acc'

/-- `a` squared `n` times in fixed point. -/
def fixSquare (p : Nat) : Nat → Nat → Nat
  | 0, a => a
  | n + 1, a => withNat ((a * a) >>> p) fun a' => fixSquare p n a'

/-- `exp(v · 2^-1074)` in fixed point, for `v · 2^-1074 < 1024`: the series at `v / 2^18`, squared 18 times. Its
relative error is below `2^(25 - p)`: 18 squarings double the series' at most `2^7` units 18 times. -/
def expFix (p v : Nat) : Nat :=
  withNat ((v <<< p) >>> 1092) fun t =>
  withNat (expSum p t p 0 (1 <<< p) 0) fun a => fixSquare p 18 a

/-- The two roundings of `exp(±v · 2^-1074)`; a negative argument is the reciprocal. -/
def expBounds (neg : Bool) (v p : Nat) : F64 × F64 :=
  withNat (expFix p v) fun a => withNat ((a >>> (p - 32)) + 1) fun err =>
    if neg then (F64.roundQ false (1 <<< (p + 1074)) (a + err), F64.roundQ false (1 <<< (p + 1074)) (a - err))
    else fixBounds false a err p

/-- EXP (R125): `EXP(0) = 1`, `EXP(−∞) = +0`, NaN in gives NaN out; otherwise correctly rounded. At 1024 and
beyond the result overflows, at -1024 and below it underflows to `+0`. -/
def F64.exp : F64 → F64
  | .nan => .nan
  | .inf neg => if neg then F64.zero else .inf false
  | .fin neg m e =>
    if m = 0 then F64.one
    else withNat (F64.units m e) fun v =>
      if 1 <<< 1084 ≤ v then (if neg then F64.zero else .inf false)
      else ziv (expBounds neg v) zivPrecisions

/-- `Σ w^(2i+1) / (2i+1)` in fixed point, from the power `pw = w^(2i+1)` on; `w2` is `w^2`. -/
def atanhSum (p w2 : Nat) : Nat → Nat → Nat → Nat → Nat
  | 0, _, _, acc => acc
  | fuel + 1, i, pw, acc =>
    if pw = 0 then acc
    else withNat ((pw * w2) >>> p) fun pw' =>
      withNat (acc + pw / (2 * i + 1)) fun acc' => atanhSum p w2 fuel (i + 1) pw' acc'

/-- `|log(num / den)| = 2·atanh(|num - den| / (num + den))` in fixed point, for `num / den` in `[2/3, 2]`. -/
def logFix (p num den : Nat) : Nat :=
  withNat (((if num < den then den - num else num - den) <<< p) / (num + den)) fun w =>
  withNat ((w * w) >>> p) fun w2 => 2 * atanhSum p w2 p 0 w 0

/-- `log(z · 2^k)` as a signed fixed-point number, `z = num / den`. -/
def logTotal (p num den : Nat) (k : Int) : Int :=
  let l : Int := (logFix p num den : Nat)
  k * ((logFix p 2 1 : Nat) : Int) + (if num < den then -l else l)

/-- The two roundings of `log(z · 2^k)`. At most 1100 multiples of a logarithm of 2 and `p` terms are summed,
so the error is below `2^24` units. -/
def logBounds (num den : Nat) (k : Int) (p : Nat) : F64 × F64 :=
  match logTotal p num den k with
  | .ofNat a => fixBounds false a (2 ^ 24) p
  | .negSucc a => fixBounds true (a + 1) (2 ^ 24) p

/-- LOG (R125): `LOG(±0) = −∞`, `LOG(x) = NaN` for `x < 0`, `LOG(1) = +0`, NaN in gives NaN out; otherwise
correctly rounded. The argument is written `z · 2^k` with `z` in `[2/3, 4/3]`. -/
def F64.log : F64 → F64
  | .nan => .nan
  | .inf neg => if neg then .nan else .inf false
  | .fin neg m e =>
    if m = 0 then .inf true
    else if neg then .nan
    else if F64.units m e = 1 <<< 1074 then F64.zero
    else
      withNat (log2 m) fun b =>
        let k : Int := (b : Int) + (e : Int) - 1074
        if 4 * 2 ^ b < 3 * m then ziv (logBounds m (2 ^ (b + 1)) (k + 1)) zivPrecisions
        else ziv (logBounds m (2 ^ b) k) zivPrecisions

/-- Euler's series of the arctangent in fixed point, from the term `term` on: each term is the one before it
times `y · (2i + 2) / (2i + 3)`. -/
def atanSum (p y : Nat) : Nat → Nat → Nat → Nat → Nat
  | 0, _, _, acc => acc
  | fuel + 1, i, term, acc =>
    if term = 0 then acc
    else withNat ((((term * y) >>> p) * (2 * i + 2)) / (2 * i + 3)) fun term' =>
      withNat (acc + term) fun acc' => atanSum p y fuel (i + 1) term' acc'

/-- `atan(num / den)` in fixed point, for `num ≤ den`: Euler's series with `y = v² / (1 + v²) ≤ 1/2`. -/
def atanFix (p num den : Nat) : Nat :=
  withNat (num * num + den * den) fun d =>
  withNat (((num * num) <<< p) / d) fun y =>
  withNat (((num * den) <<< p) / d) fun t => atanSum p y (p + 8) 0 t 0

/-- `π = 4·atan(1)` in fixed point, with an error below `2^16` units. -/
def piFix (p : Nat) : Nat := 4 * atanFix p 1 1

/-- How many further fractional bits a result about as small as its argument needs. -/
def smallBits (v : Nat) : Nat := 1074 - log2 v

/-- The two roundings of `atan(±v · 2^-1074)`; above 1 it is `π/2 − atan(1/v)`. -/
def atanBounds (neg : Bool) (v p : Nat) : F64 × F64 :=
  withNat (p + smallBits v) fun q =>
    if v ≤ 1 <<< 1074 then
      withNat (atanFix q v (1 <<< 1074)) fun a => fixBounds neg a (2 ^ 24) q
    else
      withNat (piFix q / 2 - atanFix q (1 <<< 1074) v) fun a => fixBounds neg a (2 ^ 24) q

/-- ATAN (R125): `ATAN(±0) = ±0`, `ATAN(±∞) = ±PI/2` rounded, NaN in gives NaN out; otherwise correctly
rounded. -/
def F64.atan : F64 → F64
  | .nan => .nan
  | .inf neg => ziv (fun p => withNat (piFix p / 2) fun a => fixBounds neg a (2 ^ 24) p) zivPrecisions
  | .fin neg m e =>
    if m = 0 then .fin neg 0 0
    else withNat (F64.units m e) fun v => ziv (atanBounds neg v) zivPrecisions

/-- The sums of the positive and of the negative terms of `Σ (-1)^j r^(i+2j) · i! / (i+2j)!`, subtracted, in
fixed point; `r2` is `r^2` and `term` the current term. -/
def trigSum (p r2 : Nat) : Nat → Nat → Bool → Nat → Nat → Nat → Nat
  | 0, _, _, _, pos, sub => pos - sub
  | fuel + 1, i, minus, term, pos, sub =>
    if term = 0 then pos - sub
    else withNat (((term * r2) >>> p) / ((i + 1) * (i + 2))) fun term' =>
      if minus then withNat (sub + term) fun sub' => trigSum p r2 fuel (i + 2) false term' pos sub'
      else withNat (pos + term) fun pos' => trigSum p r2 fuel (i + 2) true term' pos' sub

/-- `sin r` of a fixed-point `r` in `[0, 1)`. -/
def sinFix (p r : Nat) : Nat := withNat ((r * r) >>> p) fun r2 => trigSum p r2 p 1 false r 0 0

/-- `cos r` of a fixed-point `r` in `[0, 1)`. -/
def cosFix (p r : Nat) : Nat := withNat ((r * r) >>> p) fun r2 => trigSum p r2 p 0 false (1 <<< p) 0 0

/-- `x = v · 2^-1074` as `k · π/2 + r`, `|r| ≤ π/4`: `k`, whether `r` is negative, and `|r|` with `p` fractional
bits. π is taken with as many further bits as `x` has integer bits, and eight. -/
def quadrant (p v : Nat) : Nat × Bool × Nat :=
  withNat (log2 v - 1074 + 8) fun g =>
  withNat ((v <<< (p + g)) >>> 1074) fun x =>
  withNat (piFix (p + g) / 2) fun h =>
  withNat ((x + h / 2) / h) fun k =>
    if x < k * h then withNat ((k * h - x) >>> g) fun r => (k, true, r)
    else withNat ((x - k * h) >>> g) fun r => (k, false, r)

/-- The two roundings of `sin(k·π/2 + r)` (with `neg` its sign flipped): `sin r`, `cos r`, `−sin r`, `−cos r` by
`k mod 4`. The error is below `2^24` units. -/
def trigBounds (neg : Bool) (p : Nat) (kr : Nat × Bool × Nat) : F64 × F64 :=
  match kr with
  | (k, rneg, r) =>
    if k % 2 = 0 then
      withNat (sinFix p r) fun a => fixBounds (neg != (rneg != (k % 4 == 2))) a (2 ^ 24) p
    else
      withNat (cosFix p r) fun a => fixBounds (neg != (k % 4 == 3)) a (2 ^ 24) p

/-- SIN (R125): `SIN(±0) = ±0`, NaN in gives NaN out; otherwise correctly rounded. -/
def F64.sin : F64 → F64
  | .nan => .nan
  | .inf _ => .nan
  | .fin neg m e =>
    if m = 0 then .fin neg 0 0
    else withNat (F64.units m e) fun v =>
      ziv (fun p => withNat (p + smallBits v) fun q => trigBounds neg q (quadrant q v)) zivPrecisions

/-- COS (R125): `COS(0) = 1`, NaN in gives NaN out; otherwise correctly rounded; `cos x = sin(x + π/2)`. -/
def F64.cos : F64 → F64
  | .nan => .nan
  | .inf _ => .nan
  | .fin _ m e =>
    if m = 0 then F64.one
    else withNat (F64.units m e) fun v =>
      ziv (fun p => match quadrant p v with
        | (k, rneg, r) => trigBounds false p (k + 1, rneg, r)) zivPrecisions

end Sys2Proof.Machine
end

