-- ==== Sys2Proof/Config.lean ====
section
/-! DEFINITION. The configuration of an implementation (00_scope.md R9): every parameter the spec leaves open, as one
argument of the machine, and its default; and the values the spec leaves unspecified (93_implementation_defined.md
I1, I2, I3), as constants without a body. -/

namespace Sys2Proof

/-- The two values of SELBLUR_BAND (41_convolution.md R166). -/
inductive Band where
  /-- blur the pixels whose Laplacian lies outside the band -/
  | outside
  /-- blur the pixels whose Laplacian lies inside the band -/
  | inside
  deriving DecidableEq, Repr

/-- The samples of a GRAY8 image: the gray value of pixel (x, y). -/
abbrev GrayPlane := Nat → Nat → Nat

/-- The parameters of R9. The state, every operation and every meaning take them as an argument. -/
structure Config where
  /-- NSLOT, the number of image slots -/
  nslot : Nat
  /-- MAXDIM, the largest width or height; SDIM holds 65535 at most (assumption 29) -/
  maxDim : Nat
  /-- PLANE_BYTES, the bytes in each plane of a slot -/
  planeBytes : Nat
  /-- KMAX, the largest FILTER kernel side -/
  kmax : Nat
  /-- WINMAX, the largest ERODE, DILATE, EDGE and MEDIAN window side -/
  winmax : Nat
  /-- RMAX, the largest radius magnitude -/
  rmax : Machine.F64
  /-- EXP (40_common.md R125) -/
  exp : Machine.F64 → Machine.F64
  /-- LOG (R125) -/
  log : Machine.F64 → Machine.F64
  /-- ATAN (R125) -/
  atan : Machine.F64 → Machine.F64
  /-- SIN (R125) -/
  sin : Machine.F64 → Machine.F64
  /-- COS (R125) -/
  cos : Machine.F64 → Machine.F64
  /-- RESAMPLE (40_common.md R129): `resample I w h dw dh` is the image `I`, `w × h`, brought to `dw × dh` -/
  resample : GrayPlane → Nat → Nat → Nat → Nat → GrayPlane
  /-- SELBLUR_BAND (41_convolution.md R166) -/
  selblurBand : Band

/-- Nearest neighbour, the default RESAMPLE (R129). -/
def nearest (img : GrayPlane) (w h dw dh : Nat) : GrayPlane := fun x y => img (x * w / dw) (y * h / dh)

/-- The default of every parameter (R9; assumption 8). -/
abbrev Config.default : Config where
  nslot := 8
  maxDim := 65535
  planeBytes := 2 ^ 24
  kmax := 15
  winmax := 255
  rmax := Machine.F64.ofNat 255
  exp := Machine.F64.exp
  log := Machine.F64.log
  atan := Machine.F64.atan
  sin := Machine.F64.sin
  cos := Machine.F64.cos
  resample := nearest
  selblurBand := .outside

/-- What the spec asks of every configuration: the legal values of NSLOT (R9), and the special values that "every
implementation must give" (R125). R125 writes the argument of EXP, SIN and COS as 0 without a sign: it binds both zeros
here, and the result SIN(0) = 0 is +0 for +0 and a zero of either sign for −0 (DEDUCED, assumption 27). The other
parameters of R9 have no legal range in the spec, and none is asked here (assumptions 28 and 29). -/
structure Config.Legal (cfg : Config) : Prop where
  nslot : 1 ≤ cfg.nslot ∧ cfg.nslot ≤ 15
  log_zero : cfg.log (.fin false 0 0) = .inf true
  log_neg : ∀ m e, m ≠ 0 → cfg.log (.fin true m e) = .nan
  log_negInf : cfg.log (.inf true) = .nan
  log_one : cfg.log (Machine.F64.ofNat 1) = .fin false 0 0
  exp_zero : ∀ neg, cfg.exp (.fin neg 0 0) = Machine.F64.ofNat 1
  exp_negInf : cfg.exp (.inf true) = .fin false 0 0
  atan_zero : ∀ neg, cfg.atan (.fin neg 0 0) = .fin neg 0 0
  atan_inf : cfg.atan (.inf false) = Machine.F64.div Machine.F64.pi (Machine.F64.ofNat 2) ∧
    cfg.atan (.inf true) = (Machine.F64.div Machine.F64.pi (Machine.F64.ofNat 2)).neg
  sin_zero : cfg.sin (.fin false 0 0) = .fin false 0 0 ∧ ∃ neg, cfg.sin (.fin true 0 0) = .fin neg 0 0
  cos_zero : ∀ neg, cfg.cos (.fin neg 0 0) = Machine.F64.ofNat 1
  nan : cfg.exp .nan = .nan ∧ cfg.log .nan = .nan ∧ cfg.atan .nan = .nan ∧ cfg.sin .nan = .nan ∧
    cfg.cos .nan = .nan

/-- The number of a slot. -/
abbrev SlotNo (cfg : Config := Config.default) : Type := Fin cfg.nslot

/-- The unknown content of byte `off` of plane `plane` (0 pixel, 1 alpha, 2 selection) of a slot, after the
power-on or the abort that `gen` names (I1, I3; assumption 1). -/
opaque Config.unspecByte (gen plane off : Nat) : Byte

/-- The unknown content of a palette entry (I1, I3; assumption 1). -/
opaque Config.unspecColor (gen i : Nat) : Color

/-- The unknown content of a KRAM entry (I1; assumption 1). -/
opaque Config.unspecCoef (gen i : Nat) : BitVec 16

/-- The value of a host read of slot memory, a descriptor or KRAM while BUSY = 1 (I2; assumption 2): the draw
number makes any two such reads independent. -/
opaque Config.busyRead (draw : Nat) : Word

/-- A field of a descriptor of a slot that an aborted command may have written (I3; assumption 3). -/
opaque Config.unspecField (draw field : Nat) : Word

end Sys2Proof
end

