-- ==== Sys2Proof/Machine/Memory.lean ====
section
/-! DEFINITION. A memory as plain data: (index, value) pairs, indices strictly rising and below the size. An
index that is not listed has no value of its own; what it reads as is the owner's affair (assumption 1), so a
listed entry never equals it. -/

namespace Sys2Proof.Machine

/-- The cells of a memory (planes: bytes, so a list of `Host.Cell`; KRAM: 16-bit entries; palettes: colours). -/
abbrev Mem (α : Type) := List (Nat × α)

/-- The indices rise strictly from `lo` on and stay below `size`. -/
def memWfFrom {α : Type} (lo size : Nat) : Mem α → Bool
  | [] => true
  | (k, _) :: r => decide (lo ≤ k) && decide (k < size) && memWfFrom (k + 1) size r

/-- The canonical form. -/
def memWf {α : Type} (size : Nat) (m : Mem α) : Bool := memWfFrom 0 size m

/-- The value listed at an index. -/
def memGet {α : Type} (a : Nat) : Mem α → Option α
  | [] => none
  | (k, v) :: r => if k = a then some v else memGet a r

/-- The memory with `v` at index `a`, in canonical form again. -/
def memPut {α : Type} (a : Nat) (v : α) : Mem α → Mem α
  | [] => [(a, v)]
  | (k, w) :: r =>
    if a < k then (a, v) :: (k, w) :: r
    else if a = k then (a, v) :: r
    else (k, w) :: memPut a v r

/-- What index `o` holds after a block write of `f`: `f o` where `f` writes, the old cell where it does not. -/
def memPatchCell {α : Type} (f : Nat → Option α) (m : Mem α) (o : Nat) : Option (Nat × α) :=
  match f o with
  | some v => some (o, v)
  | none => (memGet o m).map fun v => (o, v)

/-- The memory after a block write: each index `o < n` with `f o = some v` holds `v`, every other index is as
before. -/
def memPatch {α : Type} (n : Nat) (f : Nat → Option α) (m : Mem α) : Mem α :=
  (List.range n).filterMap (memPatchCell f m) ++ m.filter (fun c => decide (n ≤ c.1))

/-- The memory with the value of `f` at every index below `n`. -/
def memFill {α : Type} (n : Nat) (f : Nat → α) (m : Mem α) : Mem α := memPatch n (fun o => some (f o)) m

end Sys2Proof.Machine
end

