-- ==== Sys2Proof/Machine/State.lean ====
section
/-! DEFINITION. The state of the IPE (10_state.md), plain data, and its value after power-on reset (R59, R310).
A register field is stored once; the words software reads are put together from the fields (Flags.lean,
Access.lean), so a reserved bit reads 0 and ignores writes by construction (93_implementation_defined.md I5). -/

namespace Sys2Proof.Machine

/-- The error codes of 60_exceptions.md R280; codes 5 and 8..15 "never written" do not exist (I7). -/
inductive ErrCode where
  | ok
  | invalidBuffer
  | dimensionMismatch
  | unsupportedFormat
  | invalidArgument
  | illegalCommand
  | noThreshold
  deriving DecidableEq, Repr

/-- One image slot (10_state.md R37): its descriptor registers, palette and planes. -/
structure Slot where
  /-- SDIM.W (R38) -/
  w : BitVec 16
  /-- SDIM.H (R38) -/
  h : BitVec 16
  /-- SFMT.DEPTH (R39) -/
  depth : BitVec 2
  /-- SFMT.ALPHA (R39) -/
  alpha : Bool
  /-- SFMT.SELV (R39) -/
  selv : Bool
  /-- SFMT.PALN (R39) -/
  paln : BitVec 9
  /-- SBOX0.BX0 (R40) -/
  bx0 : BitVec 16
  /-- SBOX0.BY0 (R40) -/
  by0 : BitVec 16
  /-- SBOX1.BX1 (R40) -/
  bx1 : BitVec 16
  /-- SBOX1.BY1 (R40) -/
  by1 : BitVec 16
  /-- the palette RAM, 256 entries (R42) -/
  pal : Mem Color
  /-- the pixel plane, PLANE_BYTES bytes (R46) -/
  pix : List Host.Cell
  /-- the alpha plane (R48) -/
  alp : List Host.Cell
  /-- the selection plane (R47) -/
  sel : List Host.Cell
  /-- the model's own: names the unknown contents of the cells nothing has written (assumption 1) -/
  gen : Nat
  deriving DecidableEq, Repr

/-- A slot after power-on: descriptors 0, memories unspecified (R59). -/
def Slot.blank (gen : Nat) : Slot where
  w := 0
  h := 0
  depth := 0
  alpha := false
  selv := false
  paln := 0
  bx0 := 0
  by0 := 0
  bx1 := 0
  by1 := 0
  pal := []
  pix := []
  alp := []
  sel := []
  gen := gen

/-- Where the engine stands in unit `i` of a command with poll points: at its `poll(i, n)` (40_common.md R133), inside
it, or past it. The host may act at each of these points (70_reset_and_hazards.md R323, R324; assumption 31). -/
inductive Phase where
  /-- the poll comes next -/
  | toPoll
  /-- the poll has written PROGRESS, and CANCEL is still to be read -/
  | reported
  /-- the poll has read CANCEL = 0, and the work of the unit comes next -/
  | passed
  /-- the poll has read CANCEL = 1, and the completion comes next -/
  | stopping
  deriving DecidableEq, Repr

/-- A command in progress: the latched block (R36), how many of its units the engine has completed (the `i` of
`poll(i, n)`, R133), and where it stands in the next one. -/
structure Job where
  cmd : CmdBlock
  units : Nat
  phase : Phase
  deriving DecidableEq, Repr

/-- The width of a host access: 1, 2 or 4 bytes (20_memory.md R63). -/
inductive Width where
  | one
  | two
  | four
  deriving DecidableEq, Repr

/-- What the host, or the power supply, does in one step (R20, R63, R310). -/
inductive HostAct where
  /-- `MemRead(addr, n)` -/
  | read (addr : Word) (n : Width)
  /-- `MemWrite(addr, n, v)` -/
  | write (addr : Word) (n : Width) (v : Word)
  /-- power is applied (70_reset_and_hazards.md R310) -/
  | powerOn
  deriving DecidableEq, Repr

/-- An event of the host's program. `wait` is how many engine steps come before it while a command is in
progress; with none in progress it happens at once (R323, R324; assumption 4). -/
structure HostEvent where
  wait : Nat
  act : HostAct
  deriving DecidableEq, Repr

/-- The state of the machine of a configuration (00_scope.md R9). -/
structure State (cfg : Config := Config.default) where
  /-- CTRL.CANCEL (R26) -/
  cancel : Bool
  /-- CTRL.IE (R26) -/
  ie : Bool
  /-- STATUS.DONE (R27) -/
  done : Bool
  /-- STATUS.CANCELLED (R27) -/
  cancelled : Bool
  /-- STATUS.HAZ (R27, R33) -/
  haz : Bool
  /-- STATUS.ERR (R27, R280) -/
  err : ErrCode
  /-- PROGRESS (R29) -/
  progress : BitVec 8
  /-- RESULT (R30) -/
  result : Word
  /-- CMD0..CMD7 (R31) -/
  cmd : CmdBlock
  /-- KRAM, 225 entries of 16 bits (R35) -/
  kram : Mem (BitVec 16)
  /-- the model's own: names the unknown contents of KRAM (assumption 1) -/
  kramGen : Nat
  /-- the image slots (R37) -/
  slots : Vector Slot cfg.nslot
  /-- the command in progress: STATUS.BUSY and the latched block (R27, R36) -/
  job : Option Job
  /-- the model's own: what the host does next, in order (assumption 4) -/
  host : List HostEvent
  /-- the model's own: what the host's reads have returned, newest first (assumption 4) -/
  replies : List Word
  /-- the model's own: the number of the next free value (assumptions 2, 3 and 9) -/
  draws : Nat
  deriving DecidableEq, Repr

/-- A reason for the machine to stop. There is none: "Nothing else raises an error" and every failing command
completes with a code in STATUS.ERR (60_exceptions.md R288, R289), so no step of this machine is a fault. -/
inductive Fault
  deriving DecidableEq, Repr

/-- Why an instruction would have no meaning in the model. -/
inductive Refusal where
  /-- raised by an arm of `exec` whose instruction has no meaning yet; safe: the machine stops. No arm raises it. -/
  | notModelled (mnemonic : String)
  deriving DecidableEq, Repr

/-- The block of eight zero words, CMD0..CMD7 after reset (R31). -/
def zeroBlock : CmdBlock := ⟨0, 0, 0, 0, 0, 0, 0, 0⟩

/-- The slots after power-on, slot `i` with generation `gen + i`. -/
def blankSlots (cfg : Config) (gen : Nat) : Vector Slot cfg.nslot :=
  Vector.ofFn fun i => Slot.blank (gen + i.val)

/-- The machine of a configuration after power-on reset (R59, R310): registers and descriptors 0, memories
unspecified, no command in progress, and a host that has not said anything yet. -/
def State.resetOf (cfg : Config) : State cfg where
  cancel := false
  ie := false
  done := false
  cancelled := false
  haz := false
  err := .ok
  progress := 0
  result := 0
  cmd := zeroBlock
  kram := []
  kramGen := cfg.nslot
  slots := blankSlots cfg 0
  job := none
  host := []
  replies := []
  draws := cfg.nslot + 1

/-- The machine of the default configuration after power-on reset (R59, R310; assumption 8). -/
def State.reset : State := State.resetOf Config.default

end Sys2Proof.Machine
end

