-- ==== Sys2Proof/Machine/Flags.lean ====
section
/-! DEFINITION. The words the register fields make (10_state.md R24-R31, R38-R40), the fields a written word
sets, and the interrupt output (R34). -/

namespace Sys2Proof.Machine

variable {cfg : Config}

/-- ID (R24): the bytes "IPE1". -/
def regId : Word := 0x49504531#32

/-- CAPS (R25): NSLOT in [7:0], KMAX in [15:8], log2(PLANE_BYTES) in [23:16]. The logarithm of a PLANE_BYTES that is no
power of two is rounded down, and a value wider than its field is cut to eight bits (DESIGN CHOICE, assumption 28). -/
def regCaps (cfg : Config) : Word :=
  (0#8 : Byte) ++ BitVec.ofNat 8 (Nat.log2 cfg.planeBytes) ++ BitVec.ofNat 8 cfg.kmax ++ BitVec.ofNat 8 cfg.nslot

/-- The four bits of an error code (60_exceptions.md R280). -/
def ErrCode.code : ErrCode → BitVec 4
  | .ok => 0
  | .invalidBuffer => 1
  | .dimensionMismatch => 2
  | .unsupportedFormat => 3
  | .invalidArgument => 4
  | .illegalCommand => 6
  | .noThreshold => 7

/-- STATUS.BUSY (R27): a command is in progress. -/
def State.busy (s : State cfg) : Bool := s.job.isSome

/-- `irq = STATUS.DONE and CTRL.IE` (R34, 60_exceptions.md R295). -/
def State.irq (s : State cfg) : Bool := s.done && s.ie

/-- The word CTRL reads as (R26): CANCEL in bit 1, IE in bit 2; START, SRESET and the reserved bits read 0. -/
def ctrlWord (s : State cfg) : Word :=
  (0#29 : BitVec 29) ++ BitVec.ofBool s.ie ++ BitVec.ofBool s.cancel ++ (0#1 : BitVec 1)

/-- The word STATUS reads as (R27): BUSY, DONE, CANCELLED, HAZ in bits 0..3, ERR in [11:8]. -/
def statusWord (s : State cfg) : Word :=
  (0#20 : BitVec 20) ++ s.err.code ++ (0#4 : BitVec 4) ++ BitVec.ofBool s.haz ++ BitVec.ofBool s.cancelled ++
    BitVec.ofBool s.done ++ BitVec.ofBool s.busy

/-- The word PROGRESS reads as (R29). -/
def progressWord (s : State cfg) : Word := s.progress.setWidth 32

/-- The word SDIM reads as (R38): W in [15:0], H in [31:16]. -/
def Slot.sdim (t : Slot) : Word := t.h ++ t.w

/-- The word SFMT reads as (R39): DEPTH in [1:0], ALPHA in bit 4, SELV in bit 8, PALN in [24:16]. -/
def Slot.sfmt (t : Slot) : Word :=
  (0#7 : BitVec 7) ++ t.paln ++ (0#7 : BitVec 7) ++ BitVec.ofBool t.selv ++ (0#3 : BitVec 3) ++
    BitVec.ofBool t.alpha ++ (0#2 : BitVec 2) ++ t.depth

/-- The word SBOX0 reads as (R40). -/
def Slot.sbox0 (t : Slot) : Word := t.by0 ++ t.bx0

/-- The word SBOX1 reads as (R40). -/
def Slot.sbox1 (t : Slot) : Word := t.by1 ++ t.bx1

/-- The slot after a write of SDIM (R38). -/
def Slot.withSdim (t : Slot) (v : Word) : Slot := { t with w := v.extractLsb' 0 16, h := v.extractLsb' 16 16 }

/-- The slot after a write of SFMT (R39): reserved bits are ignored, PALN above 256 is stored. -/
def Slot.withSfmt (t : Slot) (v : Word) : Slot :=
  { t with depth := v.extractLsb' 0 2, alpha := v.getLsbD 4, selv := v.getLsbD 8, paln := v.extractLsb' 16 9 }

/-- The slot after a write of SBOX0 (R40). -/
def Slot.withSbox0 (t : Slot) (v : Word) : Slot := { t with bx0 := v.extractLsb' 0 16, by0 := v.extractLsb' 16 16 }

/-- The slot after a write of SBOX1 (R40). -/
def Slot.withSbox1 (t : Slot) (v : Word) : Slot := { t with bx1 := v.extractLsb' 0 16, by1 := v.extractLsb' 16 16 }

/-- The word of a palette entry (20_memory.md R64): R in [7:0], G in [15:8], B in [23:16], [31:24] read 0. -/
def colorWord (c : Color) : Word := (0#8 : Byte) ++ c.b ++ c.g ++ c.r

/-- RESULT of a failed threshold command: −1 (R30). -/
def minusOne : Word := 0xFFFFFFFF#32

end Sys2Proof.Machine
end

