-- ==== Sys2Proof/Machine/Ops.lean ====
section
/-! DEFINITION. The named operations over the state: slots and kernel RAM, completion (the one event, 60_exceptions.md
R289) and its acknowledgement, the acceptance of START, the two resets, and the way a command's units run
against its poll points (40_common.md R111-R118, R133-R137). -/

namespace Sys2Proof.Machine

variable {cfg : Config}

/-- Slot `i`. -/
def State.slot (s : State cfg) (i : SlotNo cfg) : Slot := s.slots[i]

/-- The state with slot `i` replaced. -/
def State.withSlot (s : State cfg) (i : SlotNo cfg) (t : Slot) : State cfg :=
  { s with slots := s.slots.set i t }

/-- The byte at offset `off` of a slot's pixel plane (10_state.md R46); a byte nothing has written is
unspecified (I1, assumption 1). -/
def Slot.pixByte (t : Slot) (off : Nat) : Byte := (memGet off t.pix).getD (Config.unspecByte t.gen 0 off)

/-- The byte at offset `off` of a slot's alpha plane (R48). -/
def Slot.alpByte (t : Slot) (off : Nat) : Byte := (memGet off t.alp).getD (Config.unspecByte t.gen 1 off)

/-- The byte at offset `off` of a slot's selection plane (R47). -/
def Slot.selByte (t : Slot) (off : Nat) : Byte := (memGet off t.sel).getD (Config.unspecByte t.gen 2 off)

/-- Palette entry `i` of a slot (R42). -/
def Slot.palEntry (t : Slot) (i : Nat) : Color := (memGet i t.pal).getD (Config.unspecColor t.gen i)

/-- KRAM entry `i` (R35). -/
def State.coef (s : State cfg) (i : Nat) : BitVec 16 := (memGet i s.kram).getD (Config.unspecCoef s.kramGen i)

/-- `complete(code, cancelled)` (40_common.md R118), one atomic step and the machine's only event (60_exceptions.md
R289): ERR, CANCELLED, DONE and BUSY take their final values, PROGRESS is 100 after an uncancelled success and
unchanged otherwise, and the internal state of the command is discarded. -/
def State.complete (s : State cfg) (code : ErrCode) (cancelled : Bool) : State cfg :=
  { s with
    err := code
    cancelled := cancelled
    progress := if code = .ok ∧ cancelled = false then 100 else s.progress
    done := true
    job := none }

/-- The acknowledgement of a completion: 1 written to STATUS.DONE clears it (R291). "Nothing is restored, because
nothing was saved but the outcome." -/
def State.acknowledge (s : State cfg) : State cfg := { s with done := false }

/-- `raise Err(code)` inside the validation of a command other than OPTTHRESH and ADAPTHRESH (60_exceptions.md
R281): the command completes and nothing else changes. -/
def State.fail (s : State cfg) (code : ErrCode) : State cfg := s.complete code false

/-- `raise Err(code)` for OPTTHRESH and ADAPTHRESH: RESULT is set to −1 first (R281, R286). -/
def State.failThreshold (s : State cfg) (code : ErrCode) : State cfg := { s with result := minusOne }.complete code false

/-- A block that is no command completes at once with IllegalCommand (30_encoding.md R104, R105); with
OPTTHRESH's or ADAPTHRESH's opcode RESULT is −1 (R281). -/
def State.illegalCommand (s : State cfg) (c : CmdBlock) : State cfg :=
  if writesResult c then s.failThreshold .illegalCommand else s.fail .illegalCommand

/-- START acceptance (R111): the command words are latched, BUSY = 1, DONE, CANCELLED, ERR and PROGRESS are
cleared, HAZ is left unchanged. -/
def State.accept (s : State cfg) : State cfg :=
  { s with job := some ⟨s.cmd, 0, .toPoll⟩, done := false, cancelled := false, err := .ok, progress := 0 }

/-- The units the running command has completed; 0 with no command in progress. -/
def State.unitsDone (s : State cfg) : Nat :=
  match s.job with
  | some j => j.units
  | none => 0

/-- Where the running command stands in its next unit; at its poll with no command in progress. -/
def State.phase (s : State cfg) : Phase :=
  match s.job with
  | some j => j.phase
  | none => .toPoll

/-- The engine steps from the top of a unit to a phase of it. -/
def Phase.steps : Phase → Nat
  | .toPoll => 0
  | .reported => 1
  | .passed => 2
  | .stopping => 2

/-- Where the running command stands: a unit takes three engine steps, the two of its poll and its work. -/
def State.position (s : State cfg) : Nat := 3 * s.unitsDone + s.phase.steps

/-- `(100·i) div n`, the PROGRESS of `poll(i, n)` (R133). -/
def percent (i n : Nat) : BitVec 8 := BitVec.ofNat 8 (100 * i / n)

/-- PROGRESS when a command of `n` units has come to position `q`: that of the last poll on the way (R133). -/
def State.progressAt (s : State cfg) (n q : Nat) : BitVec 8 :=
  let i := (q - 1) / 3
  if s.position < 3 * i + 1 ∧ 3 * i + 1 ≤ q then percent i n else s.progress

/-- A command's body as the engine runs it (R112, R133-R135). -/
structure Body (cfg : Config) where
  /-- the number of units, each with a poll at its top (R135); 0 for a command with no poll points -/
  units : Nat
  /-- whether unit `j` ends the command with NoThreshold (ADAPTHRESH's cells only, 44_threshold.md R244) -/
  fails : Nat → Bool
  /-- the state with the units `0 .. i-1` applied, and no other effect of the body (a cancel at poll `i`, R134) -/
  stopped : Nat → State cfg → State cfg
  /-- the state with the whole body applied -/
  finished : State cfg → State cfg

/-- The position at which the host next acts; `none` when it has nothing further to do. -/
def State.nextStop (s : State cfg) : Option Nat :=
  match s.host with
  | [] => none
  | e :: _ => some (s.position + e.wait)

/-- The units of a body of `n` that run, if none fails: all, or those before the poll that reads, or has read,
CANCEL = 1 (R133, R134). -/
def State.endUnit (s : State cfg) (n : Nat) : Nat :=
  if s.phase = .stopping ∨ s.cancel = true then
    min (if s.phase = .passed then s.unitsDone + 1 else s.unitsDone) n
  else n

/-- The host acts with the engine at position `q` of a body of `n` units, of which `e` run. -/
def State.pause (s : State cfg) (q n e : Nat) : State cfg :=
  { s with
    progress := s.progressAt n q
    job := s.job.map fun j =>
      { j with
        units := q / 3
        phase :=
          if q % 3 = 0 then .toPoll
          else if q % 3 = 1 then .reported
          else if q / 3 = e then .stopping
          else .passed }
    host :=
      match s.host with
      | [] => []
      | e :: r => { e with wait := 0 } :: r }

/-- The first unit in `k .. stop-1` that fails. -/
def firstFailure (fails : Nat → Bool) (k stop : Nat) : Option Nat :=
  (List.range' k (stop - k)).find? fails

/-- How a body ends when the host leaves it alone. -/
inductive Ending where
  /-- unit `j` fails with NoThreshold -/
  | failed (j : Nat)
  /-- the poll after `e` units reads CANCEL = 1 -/
  | cancelled (e : Nat)
  /-- every unit runs -/
  | completed
  deriving DecidableEq, Repr

/-- The ending of a body from where the engine stands: the first unit that fails, among those that run, comes before a
cancel. -/
def Body.ending (b : Body cfg) (s : State cfg) : Ending :=
  match firstFailure b.fails s.unitsDone (s.endUnit b.units) with
  | some j => .failed j
  | none => if s.endUnit b.units < b.units then .cancelled (s.endUnit b.units) else .completed

/-- The position of a body of `n` units from which the next engine step is its completion. -/
def Ending.position (n : Nat) : Ending → Nat
  | .failed j => 3 * j + 2
  | .cancelled e => 3 * e + 2
  | .completed => 3 * n

/-- The completion of a body (R118, R134; 44_threshold.md R244), with the PROGRESS of its last poll. -/
def Body.conclude (b : Body cfg) (s : State cfg) (e : Ending) : State cfg :=
  let polled : State cfg := { s with progress := s.progressAt b.units (e.position b.units) }
  match e with
  | .failed _ => polled.failThreshold .noThreshold
  | .cancelled k => (b.stopped k polled).complete .ok true
  | .completed => (b.finished s).complete .ok false

/-- The engine's turn of a validated command: from where it stands it polls and runs unit after unit (R133) until the
body ends or the host acts. The host may act before a poll, between its two halves, between the poll and what it leads
to (the unit, or a completion by CANCEL or by the failure of the unit), and before the completion of the whole body
(70_reset_and_hazards.md R323, R324; assumption 31). CANCEL cannot change in between, so every poll of one turn reads
the same; `finished` and `stopped` write what the units staged (10_state.md R57). -/
def runBody (b : Body cfg) (s : State cfg) : State cfg :=
  match s.nextStop with
  | none => b.conclude s (b.ending s)
  | some q =>
    if q ≤ (b.ending s).position b.units then s.pause q b.units (s.endUnit b.units) else b.conclude s (b.ending s)

/-- The slot a slot number names; none for BADSLOT, a number from NSLOT on (30_encoding.md R87). -/
def slotRef (cfg : Config) (n : Nat) : Option (SlotNo cfg) := if h : n < cfg.nslot then some ⟨n, h⟩ else none

/-- The slot a slot field names; none for NULL and BADSLOT (R87). -/
def argSlot (cfg : Config) : SlotArg → Option (SlotNo cfg)
  | .null => none
  | .slot n => slotRef cfg n

/-- The slot a destination field names: the source when it is NULL ("in place", R87). -/
def destArg (cfg : Config) (d a : SlotArg) : Option (SlotNo cfg) := argSlot cfg (if d = .null then a else d)

/-- The slots a command may write (40_common.md R116, 43_frequency.md R203; 70_reset_and_hazards.md R314). -/
def mayWrite (cfg : Config) : Instr → List (SlotNo cfg)
  | .filter sa sb _ _ _ => (destArg cfg sb sa).toList
  | .erode sa sb _ => (destArg cfg sb sa).toList
  | .dilate sa sb _ => (destArg cfg sb sa).toList
  | .edge sa sb _ => (destArg cfg sb sa).toList
  | .contour sa sb => (destArg cfg sb sa).toList
  | .gaussblur sa sb _ => (destArg cfg sb sa).toList
  | .unsharp sa sb _ _ _ => (destArg cfg sb sa).toList
  | .selblur sa sb _ _ => (destArg cfg sb sa).toList
  | .median sa sb _ => (destArg cfg sb sa).toList
  | .fft2 sa sb sc sd _ _ _ => (destArg cfg sc sa).toList ++ (destArg cfg sd sb).toList
  | .optthresh _ _ _ _ => []
  | .adaptthresh sa _ sc _ _ _ _ => (destArg cfg sc sa).toList
  | .threshmask sa _ sc => (destArg cfg sc sa).toList
  | .floodfill sa _ _ _ _ _ _ _ _ => (destArg cfg .null sa).toList
  | .trace sa sb _ _ => (destArg cfg sb sa).toList

/-- The slot with every descriptor field, palette entry and plane byte unspecified (R314, I3; assumption 3). -/
def unspecSlot (draw : Nat) : Slot where
  w := (Config.unspecField draw 0).setWidth 16
  h := (Config.unspecField draw 1).setWidth 16
  depth := (Config.unspecField draw 2).setWidth 2
  alpha := (Config.unspecField draw 3).getLsbD 0
  selv := (Config.unspecField draw 4).getLsbD 0
  paln := (Config.unspecField draw 5).setWidth 9
  bx0 := (Config.unspecField draw 6).setWidth 16
  by0 := (Config.unspecField draw 7).setWidth 16
  bx1 := (Config.unspecField draw 8).setWidth 16
  by1 := (Config.unspecField draw 9).setWidth 16
  pal := []
  pix := []
  alp := []
  sel := []
  gen := draw

/-- The state with slot `i` unspecified; the draw number is used up. -/
def State.scramble (s : State cfg) (i : SlotNo cfg) : State cfg :=
  { s.withSlot i (unspecSlot s.draws) with draws := s.draws + 1 }

/-- The abort of a running command: the slots it may write become unspecified (R313, R314); a block that is no
command writes no slot (assumption 18). -/
def State.abort (s : State cfg) : State cfg :=
  match s.job with
  | none => s
  | some j =>
    match decode j.cmd with
    | .ok i => (mayWrite cfg i).foldl State.scramble s
    | .error _ => s

/-- The soft reset (R313): a running command is aborted with no completion; CTRL, STATUS, PROGRESS, RESULT,
CMD0..CMD7 and the latched command are cleared; every other slot and KRAM are kept. -/
def State.softReset (s : State cfg) : State cfg :=
  { s.abort with
    cancel := false
    ie := false
    done := false
    cancelled := false
    haz := false
    err := .ok
    progress := 0
    result := 0
    cmd := zeroBlock
    job := none }

/-- Power is applied (R310): the reset state, with unknown memory contents that no earlier ones bear on
(assumption 20); the host's program and what it has read are not the machine's and stay. -/
def State.powerOn (s : State cfg) : State cfg :=
  { State.resetOf cfg with
    slots := blankSlots cfg s.draws
    kramGen := s.draws + cfg.nslot
    draws := s.draws + cfg.nslot + 1
    host := s.host
    replies := s.replies }

end Sys2Proof.Machine
end

