-- ==== Sys2Proof/Machine/Operands.lean ====
section
/-! DEFINITION. The operand forms of the commands: source, destination and mask slots (30_encoding.md R87, R102)
with the checks of 60_exceptions.md R282; image classes, pixels, colours and gray values (10_state.md R41-R49,
40_common.md R119-R130); the selection scope and the scan box; and how a destination is written. -/

namespace Sys2Proof.Machine

variable {cfg : Config}

/-! ### Images -/

/-- The class of an image (10_state.md R45); DEPTH 0 is no image (R39). -/
inductive ImgClass where
  | noImage
  | idx1
  | idx8
  | gray8
  | rgb24
  deriving DecidableEq, Repr

/-- Width in pixels (R38). -/
def Slot.width (t : Slot) : Nat := t.w.toNat

/-- Height in pixels (R38). -/
def Slot.height (t : Slot) : Nat := t.h.toNat

/-- BPB, the bytes of one pixel in the pixel plane (R41, R46). -/
def Slot.bpb (t : Slot) : Nat := if t.depth = 3#2 then 3 else 1

/-- The number of pixels. -/
def Slot.area (t : Slot) : Nat := t.width * t.height

/-- `W·H·BPB`, the bytes of the pixel plane that belong to the image (R46). -/
def Slot.extent (t : Slot) : Nat := t.area * t.bpb

/-- Whether a slot is valid (R41). R41 ignores PALN where DEPTH = 3, while R39 calls every slot with PALN above 256 not
valid: such an RGB24 slot is valid here (DEDUCED, assumption 26). -/
def Slot.valid (cfg : Config) (t : Slot) : Bool :=
  t.depth != 0#2 && decide (1 ≤ t.width) && decide (1 ≤ t.height) && decide (t.extent ≤ cfg.planeBytes) &&
    (if t.depth = 1#2 then decide (1 ≤ t.paln.toNat) && decide (t.paln.toNat ≤ 2)
     else if t.depth = 2#2 then decide (1 ≤ t.paln.toNat) && decide (t.paln.toNat ≤ 256)
     else true)

/-- The colour (i, i, i). -/
def grayColor (i : Nat) : Color := ⟨BitVec.ofNat 8 i, BitVec.ofNat 8 i, BitVec.ofNat 8 i⟩

/-- The identity ramp test of GRAY8 (R44). -/
def Slot.isRamp (t : Slot) : Bool :=
  decide (t.paln.toNat = 256) && (List.range 256).all fun i => t.palEntry i == grayColor i

/-- The class of a slot's image (R45). -/
def Slot.cls (t : Slot) : ImgClass :=
  if t.depth = 0#2 then .noImage
  else if t.depth = 1#2 then .idx1
  else if t.depth = 2#2 then (if t.isRamp then .gray8 else .idx8)
  else .rgb24

/-- Whether the image has DEPTH 1 or 2, `isIndexed()` (R45). -/
def Slot.indexed (t : Slot) : Bool := t.depth == 1#2 || t.depth == 2#2

/-- The number of lanes of an image (40_common.md R139): three of RGB24, one of an indexed image. -/
def Slot.lanes (t : Slot) : Nat := t.bpb

/-- `lane(pix(I, x, y), ch)` (40_common.md R119): the byte of channel `ch`, or the index (bit 0 of the byte for
IDX1, 10_state.md R49). -/
def Slot.lane (t : Slot) (x y ch : Nat) : Nat :=
  let v := (t.pixByte ((y * t.width + x) * t.bpb + ch)).toNat
  if t.depth = 1#2 then v % 2 else v

/-- Palette resolution (10_state.md R43): an index at or beyond PALN is black. -/
def Slot.resolve (t : Slot) (v : Nat) : Color := if v < t.paln.toNat then t.palEntry v else ⟨0, 0, 0⟩

/-- `color(I, x, y)` (R119). -/
def Slot.color (t : Slot) (x y : Nat) : Color :=
  if t.depth = 3#2 then
    ⟨t.pixByte ((y * t.width + x) * 3), t.pixByte ((y * t.width + x) * 3 + 1), t.pixByte ((y * t.width + x) * 3 + 2)⟩
  else t.resolve (t.lane x y 0)

/-- `GRAYRGB` (40_common.md R128). -/
def grayRgb (c : Color) : Nat := (306 * c.r.toNat + 601 * c.g.toNat + 117 * c.b.toNat) >>> 10

/-- `grayv(I, x, y)` of an image of class `cls` (R128). -/
def Slot.grayvAs (t : Slot) (cls : ImgClass) (x y : Nat) : Nat :=
  match cls with
  | .gray8 => t.lane x y 0
  | _ => grayRgb (t.color x y)

/-- `grayv(I, x, y)` (R128). -/
def Slot.grayv (t : Slot) (x y : Nat) : Nat := t.grayvAs t.cls x y

/-! ### The selection -/

/-- `inscope(S, x, y)` (40_common.md R121, 10_state.md R47). -/
def Slot.inscope (t : Slot) (x y : Nat) : Bool :=
  !t.selv || (decide (t.bx0.toNat ≤ x) && decide (x < t.bx1.toNat) && decide (t.by0.toNat ≤ y) &&
    decide (y < t.by1.toNat) && t.selByte (y * t.width + x) != 0#8)

/-- A box of pixels `[x0, x1) × [y0, y1)`. -/
structure PixBox where
  x0 : Nat
  y0 : Nat
  x1 : Nat
  y1 : Nat
  deriving DecidableEq, Repr

/-- The scan box (40_common.md R122). -/
def Slot.scanBox (t : Slot) : PixBox :=
  if t.selv then ⟨t.bx0.toNat, t.by0.toNat, min t.width t.bx1.toNat, min t.height t.by1.toNat⟩
  else ⟨0, 0, t.width, t.height⟩

/-- The number of rows of a box; a box with no column is empty and has none (assumption 13). -/
def PixBox.rows (b : PixBox) : Nat := if b.x0 < b.x1 then b.y1 - b.y0 else 0

/-- Whether (x, y) lies in the first `k` rows of a box. -/
def PixBox.inRows (b : PixBox) (k x y : Nat) : Bool :=
  decide (b.x0 ≤ x) && decide (x < b.x1) && decide (b.y0 ≤ y) && decide (y < b.y0 + k) && decide (y < b.y1)

/-! ### Slot arguments and their checks -/

/-- A slot number given as a source: BADSLOT and a slot that is not valid are InvalidBuffer (R87, R282, group 2). -/
def State.validSlot (s : State cfg) (n : Nat) : Except ErrCode (SlotNo cfg) :=
  match slotRef cfg n with
  | none => .error .invalidBuffer
  | some i => if (s.slot i).valid cfg then .ok i else .error .invalidBuffer

/-- A required source field: NULL is InvalidBuffer (R282, group 2). -/
def State.source (s : State cfg) : SlotArg → Except ErrCode (SlotNo cfg)
  | .null => .error .invalidBuffer
  | .slot n => s.validSlot n

/-- An optional source field: NULL means the argument is absent (R87, R282). -/
def State.sourceOpt (s : State cfg) : SlotArg → Except ErrCode (Option (SlotNo cfg))
  | .null => .ok none
  | .slot n => (s.validSlot n).map some

/-- An optional destination field: checked only for BADSLOT (R282). -/
def destOpt (cfg : Config) : SlotArg → Except ErrCode (Option (SlotNo cfg))
  | .null => .ok none
  | .slot n =>
    match slotRef cfg n with
    | none => .error .invalidBuffer
    | some i => .ok (some i)

/-- A destination field of a command whose source is slot `a`: checked only for BADSLOT; NULL is in place (R87,
R282). -/
def dest (a : SlotNo cfg) (d : SlotArg) : Except ErrCode (SlotNo cfg) := (destOpt cfg d).map fun i => i.getD a

/-- A check of R282: `code` is raised where the condition does not hold. -/
def require (ok : Bool) (code : ErrCode) : Except ErrCode Unit := if ok then .ok () else .error code

/-- The classes the same-format commands accept (R138). -/
def Slot.laned (t : Slot) : Bool := t.cls == .rgb24 || t.cls == .gray8

/-- Whether a mask fits its source: GRAY8 of the same W and H (R138, R282 group 4). -/
def maskFits (m t : Slot) : Bool := m.cls == .gray8 && m.w == t.w && m.h == t.h

/-- The check of an optional mask (R282 group 4). -/
def State.requireMask (s : State cfg) (m : Option (SlotNo cfg)) (t : Slot) : Except ErrCode Unit :=
  match m with
  | none => .ok ()
  | some i => require (maskFits (s.slot i) t) .dimensionMismatch

/-- The checks of a same-format command (R282 groups 2, 3 and 5): its source and destination slots, or the code of
the first check that fails. `params` is the command's parameter check of R283. -/
def State.sameFormat (s : State cfg) (sa sb : SlotArg) (params : Bool) :
    Except ErrCode (SlotNo cfg × SlotNo cfg) :=
  match s.source sa with
  | .error e => .error e
  | .ok a =>
    match dest a sb with
    | .error e => .error e
    | .ok d =>
      if (s.slot a).laned then (if params then .ok (a, d) else .error .invalidArgument)
      else .error .unsupportedFormat

/-! ### Destinations -/

/-- The destination slot `d` of a same-format command prepared as a copy of the source `t` (40_common.md R117):
SDIM, SFMT, SBOX, the palette, the pixel bytes of the image, the alpha bytes of an RGB24 image with ALPHA, the
selection bytes of a slot with SELV; every other byte is unchanged. -/
def copyImage (t d : Slot) : Slot :=
  { d with
    w := t.w
    h := t.h
    depth := t.depth
    alpha := t.alpha
    selv := t.selv
    paln := t.paln
    bx0 := t.bx0
    by0 := t.by0
    bx1 := t.bx1
    by1 := t.by1
    pal := memFill 256 t.palEntry d.pal
    pix := memFill t.extent t.pixByte d.pix
    alp := if t.alpha ∧ t.depth = 3#2 then memFill t.area t.alpByte d.alp else d.alp
    sel := if t.selv then memFill t.area t.selByte d.sel else d.sel }

/-- The prepared destination: the slot itself in place, else a copy of the source (R117). -/
def State.prepared (s : State cfg) (a d : SlotNo cfg) : Slot :=
  if d = a then s.slot a else copyImage (s.slot a) (s.slot d)

/-- The slot with lane `ch` of pixel (x, y) set to `out x y ch` wherever `which x y` holds (40_common.md R120), and
nothing else changed. -/
def Slot.paint (t : Slot) (which : Nat → Nat → Bool) (out : Nat → Nat → Nat → Nat) : Slot :=
  { t with
    pix := memPatch t.extent (fun o =>
      let q := o / t.bpb
      let x := q % t.width
      let y := q / t.width
      if which x y then some (BitVec.ofNat 8 (out x y (o % t.bpb))) else none) t.pix }

/-- A same-format command's body (40_common.md R117, R121, R134): after `k` units the destination is prepared and
the pixels `which k x y` hold `out x y`. -/
def sameFormatBody (a d : SlotNo cfg) (units : Nat) (which : Nat → Nat → Nat → Bool)
    (out : Nat → Nat → Nat → Nat) : Body cfg where
  units := units
  fails := fun _ => false
  stopped := fun k s => s.withSlot d ((s.prepared a d).paint (which k) out)
  finished := fun s => s.withSlot d ((s.prepared a d).paint (which units) out)

/-- The pixels of the first `k` rows of the scan box that are in scope (R121, R122, R135). -/
def Slot.rowScope (t : Slot) (k x y : Nat) : Bool := t.scanBox.inRows k x y && t.inscope x y

/-- A row command (R135: FILTER, ERODE, DILATE, EDGE, CONTOUR, MEDIAN, UNSHARP): every in-scope pixel of the scan
box, row by row, takes `out t x y ch`, where `t` is the source snapshot. -/
def rowCommand (s : State cfg) (sa sb : SlotArg) (params : Bool) (out : Slot → Nat → Nat → Nat → Nat) :
    Host.Outcome (State cfg) Fault Refusal :=
  match s.sameFormat sa sb params with
  | .error e => .next (s.fail e)
  | .ok (a, d) =>
    let t := s.slot a
    .next (runBody (sameFormatBody a d t.scanBox.rows t.rowScope (out t)) s)

/-- FRESH_GRAY8(W, H) (40_common.md R130) with index `f x y` at each pixel: the identity ramp, no alpha, no
selection. Of a size above 65535, which a MAXDIM above 65535 lets FFT2 reach, SDIM holds the low 16 bits (DESIGN CHOICE,
assumption 29). -/
def freshGray8 (d : Slot) (w h : Nat) (f : Nat → Nat → Nat) : Slot :=
  { d with
    w := BitVec.ofNat 16 w
    h := BitVec.ofNat 16 h
    depth := 2
    alpha := false
    selv := false
    paln := 256
    bx0 := 0
    by0 := 0
    bx1 := 0
    by1 := 0
    pal := memFill 256 grayColor d.pal
    pix := memFill (w * h) (fun o => BitVec.ofNat 8 (f (o % w) (o / w))) d.pix }

/-- FRESH_BW(W, H) (R130) with index `f x y` (0 or 1) at each pixel: black and white, no alpha, no selection. -/
def freshBw (d : Slot) (w h : Nat) (f : Nat → Nat → Bool) : Slot :=
  { d with
    w := BitVec.ofNat 16 w
    h := BitVec.ofNat 16 h
    depth := 1
    alpha := false
    selv := false
    paln := 2
    bx0 := 0
    by0 := 0
    bx1 := 0
    by1 := 0
    pal := memFill 2 (fun i => if i = 0 then ⟨0, 0, 0⟩ else ⟨255, 255, 255⟩) d.pal
    pix := memFill (w * h) (fun o => if f (o % w) (o / w) then 1 else 0) d.pix }

/-- FRESH_RGB24(W, H) (R130) with colour `f x y` at each pixel: the palette untouched, PALN 0, no alpha, no
selection. An image of more than PLANE_BYTES bytes has its further bytes nowhere to go (assumption 12). -/
def freshRgb24 (cfg : Config) (d : Slot) (w h : Nat) (f : Nat → Nat → Color) : Slot :=
  { d with
    w := BitVec.ofNat 16 w
    h := BitVec.ofNat 16 h
    depth := 3
    alpha := false
    selv := false
    paln := 0
    bx0 := 0
    by0 := 0
    bx1 := 0
    by1 := 0
    pix := memFill (min (w * h * 3) cfg.planeBytes) (fun o =>
      let q := o / 3
      let c := f (q % w) (q / w)
      if o % 3 = 0 then c.r else if o % 3 = 1 then c.g else c.b) d.pix }

/-- The body of a command without poll points (R135): the whole effect in one engine step. -/
def wholeBody (finish : State cfg → State cfg) : Body cfg where
  units := 0
  fails := fun _ => false
  stopped := fun _ s => s
  finished := finish

end Sys2Proof.Machine
end

