-- ==== Sys2Proof/Machine/Window.lean ====
section
/-! DEFINITION. The window commands: FILTER, ERODE, DILATE and MEDIAN (41_convolution.md R150-R157, R169, R170). -/

namespace Sys2Proof.Machine

variable {cfg : Config}

/-- A position of a window: the pixel (u, v) and the KRAM entry of its offset. -/
structure WinPos where
  u : Nat
  v : Nat
  i : Nat
  deriving DecidableEq, Repr

/-- The coordinate at offset `i − K div 2` from `x`, when it lies in `[0, n)` (R150, 40_common.md R123). -/
def winCoord (k n x i : Nat) : Option Nat :=
  if k / 2 ≤ x + i ∧ x + i - k / 2 < n then some (x + i - k / 2) else none

/-- The window of pixel (x, y) with side `k` in an image of `w × h` pixels, in collection order: dx ascending as the
outer loop, dy ascending as the inner loop (R150). The offset (dx, dy) of indices `i`, `j` has the KRAM entry
`i + K·j`. -/
def window (k w h x y : Nat) : List WinPos :=
  (List.range k).flatMap fun i =>
    (List.range k).filterMap fun j =>
      match winCoord k w x i, winCoord k h y j with
      | some u, some v => some ⟨u, v, i + k * j⟩
      | _, _ => none

/-- `clamp(v, 0, 255)` (00_scope.md R11). -/
def clampByte (v : Int) : Nat := (min 255 (max 0 v)).toNat

/-- The sum of `w · lane` over a window (R152). -/
def weightedSum (c : Nat → Int) (lane : Nat → Nat → Nat) (win : List WinPos) : Int :=
  win.foldl (fun s p => s + c p.i * (lane p.u p.v : Int)) 0

/-- `summed`, "the weight actually summed" (R151). -/
def summedWeight (c : Nat → Int) (win : List WinPos) : Int := win.foldl (fun s p => s + c p.i) 0

/-- `total`, "the total kernel weight" (R151). -/
def totalWeight (c : Nat → Int) (k : Nat) : Int := (List.range (k * k)).foldl (fun s i => s + c i) 0

/-- FILTER's three modes before the clamp (R152): no division, division by the factor, and the exact
re-normalized division; `quot` truncates toward zero (40_common.md R124). -/
def filterMode (s summed total factor bias : Int) : Int :=
  if factor = 0 ∨ summed = 0 then s + bias
  else if summed = total then s.tdiv factor + bias
  else (s * total).tdiv (summed * factor) + bias

/-- FILTER's result for one lane of one pixel (R151, R152): `c i` is coefficient `i`, `lane u v` the lane of
pixel (u, v). -/
def filterLane (c : Nat → Int) (k : Nat) (factor bias : Int) (w h : Nat) (lane : Nat → Nat → Nat) (x y : Nat) : Nat :=
  let win := window k w h x y
  clampByte (filterMode (weightedSum c lane win) (summedWeight c win) (totalWeight c k) factor bias)

/-- The values of a lane over a window. -/
def laneValues (t : Slot) (k x y ch : Nat) : List Nat :=
  (window k t.width t.height x y).map fun p => t.lane p.u p.v ch

/-- The least value of a lane over the window (R155); a window holds its own pixel and lanes are bytes, so 255 is
never above the result. -/
def minLane (t : Slot) (k x y ch : Nat) : Nat := (laneValues t k x y ch).foldl min 255

/-- The largest value of a lane over the window (R156). -/
def maxLane (t : Slot) (k x y ch : Nat) : Nat := (laneValues t k x y ch).foldl max 0

/-- The MEDIAN key of a pixel (R169): `R·65536 + G·256 + B` for RGB24, the index otherwise. -/
def medianKey (t : Slot) (x y : Nat) : Nat :=
  if t.depth = 3#2 then t.lane x y 0 * 65536 + t.lane x y 1 * 256 + t.lane x y 2 else t.lane x y 0

/-- Channel `ch` of the pixel with a given key. -/
def keyLane (t : Slot) (key ch : Nat) : Nat :=
  if t.depth = 3#2 then (if ch = 0 then key / 65536 else if ch = 1 then key / 256 % 256 else key % 256) else key

/-- Insertion of a key after the keys that do not exceed it, as a stable sort does. -/
def insertKey (a : Nat) : List Nat → List Nat
  | [] => [a]
  | b :: r => if a < b then a :: b :: r else b :: insertKey a r

/-- The keys ascending (R169). -/
def sortKeys : List Nat → List Nat
  | [] => []
  | a :: r => insertKey a (sortKeys r)

/-- The MEDIAN result for one pixel (R169, R170): the element at position `n div 2` of the sorted window. -/
def medianLane (t : Slot) (k x y ch : Nat) : Nat :=
  let keys := (window k t.width t.height x y).map fun p => medianKey t p.u p.v
  keyLane t ((sortKeys keys).getD (keys.length / 2) 0) ch

/-- The parameter check of ERODE, DILATE, EDGE and MEDIAN (R154, R283). -/
def winSideOk (cfg : Config) (k : Byte) : Bool := decide (1 ≤ k.toNat) && decide (k.toNat ≤ cfg.winmax)

/-- The parameter check of FILTER (R152, R283): K odd and `1 ≤ K ≤ KMAX`. -/
def filterSideOk (cfg : Config) (k : Byte) : Bool := decide (k.toNat % 2 = 1) && decide (k.toNat ≤ cfg.kmax)

/-- FILTER (R152, R153): the coefficients are KRAM's, the same computation for every lane of every class. -/
def execFilter (sa sb : SlotArg) (k : Byte) (factor bias : Word) (s : State cfg) : Host.Outcome (State cfg) Fault Refusal :=
  rowCommand s sa sb (filterSideOk cfg k) fun t x y ch =>
    filterLane (fun i => (s.coef i).toInt) k.toNat factor.toInt bias.toInt t.width t.height
      (fun u v => t.lane u v ch) x y

/-- ERODE (R155). -/
def execErode (sa sb : SlotArg) (k : Byte) (s : State cfg) : Host.Outcome (State cfg) Fault Refusal :=
  rowCommand s sa sb (winSideOk cfg k) fun t x y ch => minLane t k.toNat x y ch

/-- DILATE (R156). -/
def execDilate (sa sb : SlotArg) (k : Byte) (s : State cfg) : Host.Outcome (State cfg) Fault Refusal :=
  rowCommand s sa sb (winSideOk cfg k) fun t x y ch => maxLane t k.toNat x y ch

/-- MEDIAN (R170). -/
def execMedian (sa sb : SlotArg) (k : Byte) (s : State cfg) : Host.Outcome (State cfg) Fault Refusal :=
  rowCommand s sa sb (winSideOk cfg k) fun t x y ch => medianLane t k.toNat x y ch

end Sys2Proof.Machine
end

