-- ==== Sys2Proof/Machine/Blur.lean ====
section
/-! DEFINITION. The Gaussian blur and what is built on it: GAUSSBLUR, UNSHARP and SELBLUR (41_convolution.md
R158-R168). -/

namespace Sys2Proof.Machine

variable {cfg : Config}

/-- `σ = |r| / 2.0 + 0.25` (R158). -/
def gaussSigma (r : F64) : F64 := F64.add (F64.div r.abs F64.two) (F64.ofFrac 1 4)

/-- `Rr = σ · 2.0`, the integration half-width (R158). -/
def gaussHalfWidth (r : F64) : F64 := F64.mul (gaussSigma r) F64.two

/-- `mid = L div 2 = ceil(Rr − 0.5)` (R158). -/
def gaussMid (r : F64) : Nat := (F64.ceil (F64.sub (gaussHalfWidth r) F64.half)).toNat

/-- `L = 2 · ceil(Rr − 0.5) + 1` (R158). -/
def gaussLength (r : F64) : Nat := 2 * gaussMid r + 1

/-- `g(t) = EXP((−(t · t)) / ((2.0 · σ) · σ))` (R159). -/
def gaussG (cfg : Config) (sigma t : F64) : F64 :=
  cfg.exp (F64.div (F64.neg (F64.mul t t)) (F64.mul (F64.mul F64.two sigma) sigma))

/-- The binary64 value nearest to 0.02 (R159). -/
def gaussStep : F64 := F64.ofFrac 2 100

/-- The weight of the cell `d` cells right of the centre, before normalization (R159): 50 samples at
`base + 0.02·j`, those beyond `Rr` left out. -/
def gaussSide (cfg : Config) (sigma rr : F64) (d : Nat) : F64 :=
  let base := F64.sub (F64.ofNat d) F64.half
  let acc := (List.range' 1 50).foldl (fun acc j =>
    let t := F64.add base (F64.mul gaussStep (F64.ofNat j))
    if F64.le t rr then F64.add acc (gaussG cfg sigma t) else acc) F64.zero
  F64.div acc (F64.ofNat 50)

/-- The weight of the centre cell, before normalization (R159): 51 samples from −0.5 to +0.5. -/
def gaussCentre (cfg : Config) (sigma : F64) : F64 :=
  let acc := (List.range 51).foldl (fun acc j =>
    F64.add acc (gaussG cfg sigma (F64.add (F64.neg F64.half) (F64.mul gaussStep (F64.ofNat j))))) F64.zero
  F64.div acc (F64.ofNat 51)

/-- The weights w[0..L−1] (R159): mirrored sides about the centre, each divided by the left-to-right sum. -/
def gaussWeights (cfg : Config) (r : F64) : List F64 :=
  let sigma := gaussSigma r
  let side := (List.range' 1 (gaussMid r)).map (gaussSide cfg sigma (gaussHalfWidth r))
  let raw := side.reverse ++ gaussCentre cfg sigma :: side
  let tot := match raw with
    | [] => F64.zero
    | a :: rest => rest.foldl F64.add a
  raw.map fun v => F64.div v tot

/-- `LUT[j][v] = w[j] · f64(v)` (R160, 10_state.md R51). -/
def lutEntry (wj : F64) (v : Nat) : F64 := F64.mul wj (F64.ofNat v)

/-- The taps of `linblur` at position `r` of a line of `n` values (R160): the weights w[j] with
`0 ≤ r + j − mid < n`, each with its sample, in increasing j. -/
def blurTaps (w : List F64) (n : Nat) (a : Nat → Nat) (r : Nat) : List (F64 × Nat) :=
  (w.zipIdx).filterMap fun (wj, j) =>
    if w.length / 2 ≤ r + j ∧ r + j - w.length / 2 < n then some (wj, a (r + j - w.length / 2)) else none

/-- `linblur(a)[r]` of a line of `n` lane values (R160): the full-kernel interior, or the truncated edge
renormalized by the weights it uses. -/
def linblur (w : List F64) (n : Nat) (a : Nat → Nat) (r : Nat) : Nat :=
  let taps := blurTaps w n a r
  let acc := taps.foldl (fun acc q => F64.add acc (lutEntry q.1 q.2)) F64.zero
  if taps.length = w.length then roundByte acc
  else roundByte (F64.div acc (taps.foldl (fun acc q => F64.add acc q.1) F64.zero))

/-- T, the row pass of `blur2`: row y blurred, rounded to integers (R161). -/
def rowPass (w : List F64) (t : Slot) (x y ch : Nat) : Nat := linblur w t.width (fun u => t.lane u y ch) x

/-- B, the column pass of `blur2` (R161). -/
def blurLane (w : List F64) (t : Slot) (x y ch : Nat) : Nat :=
  linblur w t.height (fun v => rowPass w t x v ch) y

/-- The radius check of GAUSSBLUR, UNSHARP and SELBLUR (R162): finite and `|r| ≤ RMAX`. -/
def radiusOk (cfg : Config) (r : F64) : Bool := r.isFinite && F64.le r.abs cfg.rmax

/-- A column command (40_common.md R135: GAUSSBLUR, SELBLUR): the body whose units are the columns of the column
pass; the pixels `which x y` of the first `k` columns hold the blurred image. -/
def columnBody (s : State cfg) (a d : SlotNo cfg) (w : List F64) (which : Nat → Nat → Bool) : Body cfg :=
  let t := s.slot a
  sameFormatBody a d t.width (fun k x y => decide (x < k) && which x y) (blurLane w t)

/-- GAUSSBLUR (R163): every in-scope pixel takes its blurred value. -/
def execGaussblur (sa sb : SlotArg) (radius : Word) (s : State cfg) : Host.Outcome (State cfg) Fault Refusal :=
  match s.sameFormat sa sb (radiusOk cfg (F64.ofF32 radius)) with
  | .error e => .next (s.fail e)
  | .ok (a, d) => .next (runBody (columnBody s a d (gaussWeights cfg (F64.ofF32 radius)) (s.slot a).inscope) s)

/-- `unsharp1(s, b)` (R164). -/
def unsharp1 (amount : F64) (threshold : Int) (v b : Nat) : Nat :=
  let diff : Int := (v : Int) - (b : Int)
  if (diff.natAbs : Int) < threshold then v
  else clampTrunc (F64.add (F64.ofNat v) (F64.mul amount (F64.ofInt diff)))

/-- UNSHARP (R165): the whole image is blurred without polls, then merged row by row. -/
def execUnsharp (sa sb : SlotArg) (radius amount threshold : Word) (s : State cfg) : Host.Outcome (State cfg) Fault Refusal :=
  let w := gaussWeights cfg (F64.ofF32 radius)
  rowCommand s sa sb (radiusOk cfg (F64.ofF32 radius) && (F64.ofF32 amount).isFinite) fun t x y ch =>
    unsharp1 (F64.ofF32 amount) threshold.toInt (t.lane x y ch) (blurLane w t x y ch)

/-- The coefficients of SELBLUR's Laplacian (R167): −100 about a centre of 801. -/
def laplacianCoef (i : Nat) : Int := if i = 4 then 801 else -100

/-- A lane of `Lap` (R167): FILTER's computation with K = 3, factor 800, bias 128, selection ignored. -/
def laplacian (t : Slot) (x y ch : Nat) : Nat :=
  filterLane laplacianCoef 3 800 128 t.width t.height (fun u v => t.lane u v ch) x y

/-- Whether a Laplacian value lies in the band `[max(0, 128 − t), min(255, 128 + t)]` (R167). -/
def inBand (thr v : Nat) : Bool := decide (128 - thr ≤ v) && decide (v ≤ min 255 (128 + thr))

/-- Whether a pixel qualifies (R167), by SELBLUR_BAND (R166). -/
def qualifies (cfg : Config) (t : Slot) (thr x y : Nat) : Bool :=
  t.inscope x y &&
    match cfg.selblurBand with
    | .outside => (List.range t.lanes).any fun ch => !inBand thr (laplacian t x y ch)
    | .inside => (List.range t.lanes).all fun ch => inBand thr (laplacian t x y ch)

/-- SELBLUR (R168): the qualifying pixels take their blurred values. -/
def execSelblur (sa sb : SlotArg) (radius : Word) (threshold : Byte) (s : State cfg) : Host.Outcome (State cfg) Fault Refusal :=
  match s.sameFormat sa sb (radiusOk cfg (F64.ofF32 radius)) with
  | .error e => .next (s.fail e)
  | .ok (a, d) =>
    .next (runBody (columnBody s a d (gaussWeights cfg (F64.ofF32 radius)) (qualifies cfg (s.slot a) threshold.toNat)) s)

end Sys2Proof.Machine
end

