-- ==== Sys2Proof/Machine/EdgeContour.lean ====
section
/-! DEFINITION. The edge and contour unit: EDGE and CONTOUR (42_edge_contour.md R180-R184). -/

namespace Sys2Proof.Machine

variable {cfg : Config}

/-- `edge1 = 255 − (mx − mn)` (R180). -/
def edgeLane (t : Slot) (k x y ch : Nat) : Nat := 255 - (maxLane t k x y ch - minLane t k x y ch)

/-- CONTOUR's `m` (R182): the largest positive neighbour-minus-centre difference over the 3×3 window; a darker
neighbour contributes 0, as the pixel itself does. -/
def contourDiff (t : Slot) (x y ch : Nat) : Nat :=
  ((laneValues t 3 x y ch).map fun v => v - t.lane x y ch).foldl max 0

/-- `255 − m` (R182). -/
def contourLane (t : Slot) (x y ch : Nat) : Nat := 255 - contourDiff t x y ch

/-- EDGE (R181). -/
def execEdge (sa sb : SlotArg) (k : Byte) (s : State cfg) : Host.Outcome (State cfg) Fault Refusal :=
  rowCommand s sa sb (winSideOk cfg k) fun t x y ch => edgeLane t k.toNat x y ch

/-- CONTOUR (R183): no parameter to check. -/
def execContour (sa sb : SlotArg) (s : State cfg) : Host.Outcome (State cfg) Fault Refusal :=
  rowCommand s sa sb true fun t x y ch => contourLane t x y ch

end Sys2Proof.Machine
end

