-- ==== Sys2Proof/Machine/Frequency.lean ====
section
/-! DEFINITION. The frequency unit: FFT2 and its 1-D datapaths FFT1 and DFT1 (43_frequency.md R200-R211). -/

namespace Sys2Proof.Machine

variable {cfg : Config}

/-- A complex sample: real and imaginary part. -/
structure Cx where
  re : F64
  im : F64
  deriving DecidableEq, Repr

/-- `0.0 + 0.0i`. -/
def cxZero : Cx := ⟨F64.zero, F64.zero⟩

/-- Element `i` of a line. -/
def cxAt (a : List Cx) (i : Nat) : Cx := a.getD i cxZero

/-- The line with elements `i` and `j` exchanged. -/
def cxSwap (a : List Cx) (i j : Nat) : List Cx := (a.set i (cxAt a j)).set j (cxAt a i)

/-- `while k ≤ j: j = j − k; k = k >> 1`, then `j = j + k` (R204): the next bit-reversed index. -/
def bitRevNext : Nat → Nat → Nat → Nat
  | 0, k, j => j + k
  | fuel + 1, k, j => if k ≤ j then bitRevNext fuel (k >>> 1) (j - k) else j + k

/-- The bit-reversal permutation of R204. -/
def bitReverse (a : List Cx) : List Cx :=
  let n := a.length
  ((List.range (n - 1)).foldl (fun (st : List Cx × Nat) i =>
    (if i < st.2 then cxSwap st.1 i st.2 else st.1, bitRevNext n (n >>> 1) st.2)) (a, 0)).1

/-- `t1 = u1·x − u2·y`, `t2 = u1·y + u2·x` (R204): the product with the twiddle factor. -/
def cxTwiddle (u v : Cx) : Cx :=
  ⟨F64.sub (F64.mul u.re v.re) (F64.mul u.im v.im), F64.add (F64.mul u.re v.im) (F64.mul u.im v.re)⟩

/-- One butterfly between `i` and `i + l1` (R204). -/
def butterfly (u : Cx) (l1 : Nat) (a : List Cx) (i : Nat) : List Cx :=
  let t := cxTwiddle u (cxAt a (i + l1))
  let v := cxAt a i
  (a.set (i + l1) ⟨F64.sub v.re t.re, F64.sub v.im t.im⟩).set i ⟨F64.add v.re t.re, F64.add v.im t.im⟩

/-- `z = u1·c1 − u2·c2; u2 = u1·c2 + u2·c1; u1 = z` (R204). -/
def twiddleNext (u c : Cx) : Cx :=
  ⟨F64.sub (F64.mul u.re c.re) (F64.mul u.im c.im), F64.add (F64.mul u.re c.im) (F64.mul u.im c.re)⟩

/-- The butterflies of one stage with half-span `l1`, and the step `c` of its twiddle factor (R204). -/
def fftStage (c : Cx) (l1 : Nat) (a : List Cx) : List Cx :=
  let n := a.length
  ((List.range l1).foldl (fun (st : List Cx × Cx) j =>
    ((List.range (n / (2 * l1))).foldl (fun b t => butterfly st.2 l1 b (j + t * (2 * l1))) st.1,
      twiddleNext st.2 c)) (a, ⟨F64.one, F64.zero⟩)).1

/-- The next stage's `c2 = SQRT((1.0 − c1) / 2.0)`, negated forward, and `c1 = SQRT((1.0 + c1) / 2.0)` (R204). -/
def stageNext (inv : Bool) (c : Cx) : Cx :=
  let c2 := F64.sqrt (F64.div (F64.sub F64.one c.re) F64.two)
  ⟨F64.sqrt (F64.div (F64.add F64.one c.re) F64.two), if inv then c2 else F64.neg c2⟩

/-- The `m` stages of R204 from half-span `l1` on. -/
def fftStages (inv : Bool) : Nat → Cx → Nat → List Cx → List Cx
  | 0, _, _, a => a
  | m + 1, c, l1, a => fftStages inv m (stageNext inv c) (2 * l1) (fftStage c l1 a)

/-- "forward normalizes by 1/N, inverse unnormalized" (R204, R205). -/
def normalize (inv : Bool) (a : List Cx) : List Cx :=
  if inv then a
  else a.map fun v => ⟨F64.div v.re (F64.ofNat a.length), F64.div v.im (F64.ofNat a.length)⟩

/-- FFT1 (R204) of a line whose length is a power of two. -/
def fft1 (inv : Bool) (a : List Cx) : List Cx :=
  normalize inv (fftStages inv a.length.log2 ⟨F64.neg F64.one, F64.zero⟩ 1 (bitReverse a))

/-- The angle of output `i` of `n` (R205): `f64(−dir) · 2.0 · PI · f64(i) / f64(n)`, left to right. -/
def dftArg (inv : Bool) (i n : Nat) : F64 :=
  F64.div (F64.mul (F64.mul (F64.mul (if inv then F64.one else F64.neg F64.one) F64.two) F64.pi) (F64.ofNat i))
    (F64.ofNat n)

/-- The term `k` of an output of DFT1 added to the sum (R205). -/
def dftTerm (cfg : Config) (arg : F64) (acc : Cx) (vk : Cx × Nat) : Cx :=
  let ca := cfg.cos (F64.mul (F64.ofNat vk.2) arg)
  let sa := cfg.sin (F64.mul (F64.ofNat vk.2) arg)
  ⟨F64.add acc.re (F64.sub (F64.mul vk.1.re ca) (F64.mul vk.1.im sa)),
    F64.add acc.im (F64.add (F64.mul vk.1.re sa) (F64.mul vk.1.im ca))⟩

/-- DFT1 (R205) of a line of any length. -/
def dft1 (cfg : Config) (inv : Bool) (a : List Cx) : List Cx :=
  normalize inv ((List.range a.length).map fun i => a.zipIdx.foldl (dftTerm cfg (dftArg inv i a.length)) cxZero)

/-- `T1` (R206): FFT1 if the length is a power of two, else DFT1. -/
def transform1 (cfg : Config) (inv : Bool) (a : List Cx) : List Cx :=
  if 2 ^ a.length.log2 = a.length then fft1 inv a else dft1 cfg inv a

/-- The transformed grid (R206, 10_state.md R52) of the grid `g x y`, `w × h`: every row first, then every column.
The answer lists the columns. -/
def fftGrid (cfg : Config) (inv : Bool) (w h : Nat) (g : Nat → Nat → Cx) : List (List Cx) :=
  let rows := (List.range h).map fun y => transform1 cfg inv ((List.range w).map fun x => g x y)
  (List.range w).map fun x => transform1 cfg inv (rows.map fun row => cxAt row x)

/-- Point (x, y) of a transformed grid. -/
def gridAt (cols : List (List Cx)) (x y : Nat) : Cx := cxAt (cols.getD x []) y

/-- `nextpow2(n)`, the least power of two ≥ n (R201), for `n ≥ 1`. -/
def nextPow2 (n : Nat) : Nat := if n ≤ 1 then 1 else 2 ^ ((n - 1).log2 + 1)

/-- The output scale `nn` (R207). -/
def outputScale (inv mag : Bool) (w h : Nat) : F64 :=
  let nn := F64.div (F64.ofNat (max w h)) (F64.ofNat 16)
  let nn := if inv then F64.div F64.one nn else nn
  if mag then F64.mul nn (F64.ofNat 4) else nn

/-- The real output of a point: plain (R208) or magnitude (R209). -/
def realOut (cfg : Config) (mag : Bool) (nn : F64) (v : Cx) : Nat :=
  if mag then
    let m := F64.sqrt (F64.add (F64.mul v.re v.re) (F64.mul v.im v.im))
    clampTrunc (F64.mul nn (F64.add (F64.ofNat 3) (cfg.log m)))
  else clampTrunc (F64.add (F64.ofNat 128) (F64.mul v.re nn))

/-- The imaginary output of a point: plain (R208) or phase, with the divisor guarded by `1.0e−10` (R209). -/
def imagOut (cfg : Config) (mag : Bool) (nn : F64) (v : Cx) : Nat :=
  if mag then
    let d := if F64.eq v.re F64.zero then F64.ofFrac 1 (10 ^ 10) else v.re
    clampTrunc (F64.add (F64.ofNat 128) (F64.mul (cfg.atan (F64.div v.im d)) nn))
  else clampTrunc (F64.add (F64.ofNat 128) (F64.mul v.im nn))

/-- One part of the grid (R201, R202): the gray value of the source, resampled to `w × h` when `pow2`, less 128;
0.0 for an absent source. The gray value of an IDX8 or IDX1 source goes through its palette, as R200 and 40_common.md
R128 say, though a corner case of R210 says that a source's palette is not used (DEDUCED, assumption 30). -/
def gridPart (cfg : Config) (t : Option Slot) (pow2 : Bool) (w h x y : Nat) : F64 :=
  match t with
  | none => F64.zero
  | some t =>
    let gray := t.grayvAs t.cls
    let g := if pow2 then cfg.resample gray t.width t.height w h x y else gray x y
    F64.ofInt ((g : Int) - 128)

/-- What FFT2 reads and writes once it is validated. -/
structure FftPlan (cfg : Config) where
  srcR : Option (SlotNo cfg)
  srcI : Option (SlotNo cfg)
  tR : Option (SlotNo cfg)
  tI : Option (SlotNo cfg)
  /-- working width W' (R201) -/
  w : Nat
  /-- working height H' (R201) -/
  h : Nat
  deriving DecidableEq, Repr

/-- The check that the two targets are not one slot (R203). -/
def targetsDiffer (tR tI : Option (SlotNo cfg)) : Bool :=
  match tR, tI with
  | some a, some b => a != b
  | _, _ => true

/-- The checks of FFT2 (60_exceptions.md R282 groups 2, 4 and 5, R283): its plan, or the code of the first check
that fails. -/
def State.fftPlan (s : State cfg) (sa sb sc sd : SlotArg) (pow2 : Bool) : Except ErrCode (FftPlan cfg) :=
  match s.sourceOpt sa, s.sourceOpt sb, destOpt cfg sc, destOpt cfg sd with
  | .ok a, .ok b, .ok c, .ok d =>
    match (a.or b) with
    | none => .error .invalidBuffer
    | some m =>
      let t := s.slot m
      let sizes := match a, b with
        | some a, some b => (s.slot a).w == (s.slot b).w && (s.slot a).h == (s.slot b).h
        | _, _ => true
      let w := if pow2 then nextPow2 t.width else t.width
      let h := if pow2 then nextPow2 t.height else t.height
      if !sizes then .error .dimensionMismatch
      else if !targetsDiffer (c.or a) (d.or b) then .error .invalidArgument
      else if decide (w ≤ cfg.maxDim) && decide (h ≤ cfg.maxDim) && decide (w * h ≤ cfg.planeBytes) then
        .ok ⟨a, b, c.or a, d.or b, w, h⟩
      else .error .invalidArgument
  | _, _, _, _ => .error .invalidBuffer

/-- A target slot, if there is one, becomes a FRESH_GRAY8 image (R203); a temporary target is discarded. -/
def State.writeTarget (s : State cfg) (t : Option (SlotNo cfg)) (w h : Nat) (f : Nat → Nat → Nat) : State cfg :=
  match t with
  | none => s
  | some i => s.withSlot i (freshGray8 (s.slot i) w h f)

/-- The grid of a plan, read from the snapshots (R202). -/
def State.planGrid (s : State cfg) (p : FftPlan cfg) (pow2 : Bool) (x y : Nat) : Cx :=
  ⟨gridPart cfg (p.srcR.map s.slot) pow2 p.w p.h x y, gridPart cfg (p.srcI.map s.slot) pow2 p.w p.h x y⟩

/-- FFT2 (R210). -/
def execFft2 (sa sb sc sd : SlotArg) (inv pow2 mag : Bool) (s : State cfg) : Host.Outcome (State cfg) Fault Refusal :=
  match s.fftPlan sa sb sc sd pow2 with
  | .error e => .next (s.fail e)
  | .ok p =>
    let cols := fftGrid cfg inv p.w p.h (s.planGrid p pow2)
    let nn := outputScale inv mag p.w p.h
    .next (runBody (wholeBody fun s' =>
      (s'.writeTarget p.tR p.w p.h fun x y => realOut cfg mag nn (gridAt cols x y)).writeTarget p.tI p.w p.h
        fun x y => imagOut cfg mag nn (gridAt cols x y)) s)

end Sys2Proof.Machine
end

