-- ==== Sys2Proof/Machine/Threshold.lean ====
section
/-! DEFINITION. The threshold unit: OPTTHRESH, ADAPTHRESH and THRESHMASK (44_threshold.md R230-R245). -/

namespace Sys2Proof.Machine

variable {cfg : Config}

/-- The clipped box of the histogram (R231): a box's signed bounds limited to the image. -/
def clipBox (x0 y0 x1 y1 : Int) (w h : Nat) : PixBox :=
  ⟨(max x0 0).toNat, (max y0 0).toNat, (min x1 w).toNat, (min y1 h).toNat⟩

/-- The pixels of a box, row by row. -/
def PixBox.pixels (b : PixBox) : List (Nat × Nat) :=
  (List.range' b.y0 (b.y1 - b.y0)).flatMap fun y => (List.range' b.x0 (b.x1 - b.x0)).map fun x => (x, y)

/-- The histogram (R232) of the gray levels of a box, mask-zero pixels left out: the 256 counts. The counts are exact
in binary64, so they are kept as integers and converted where they are used. -/
def histogram (g : Nat → Nat → Nat) (m : Nat → Nat → Bool) (b : PixBox) : List Nat :=
  b.pixels.foldl (fun p q => if m q.1 q.2 then p.modify (g q.1 q.2) (· + 1) else p) (List.replicate 256 0)

/-- `p[i]` as a real (R232). -/
def binCount (p : List Nat) (i : Nat) : F64 := F64.ofNat (p.getD i 0)

/-- `gmin` (R233): up from `i` while the bin is empty, at most to 255. -/
def grayMin (p : List Nat) : Nat → Nat → Nat
  | 0, i => i
  | fuel + 1, i => if i < 255 ∧ p.getD i 0 = 0 then grayMin p fuel (i + 1) else i

/-- `gmax` (R233): down from `i` while the bin is empty, at most to 0. -/
def grayMax (p : List Nat) : Nat → Nat
  | 0 => 0
  | i + 1 => if p.getD (i + 1) 0 = 0 then grayMax p i else i + 1

/-- The running values of R234: the objective maximum and threshold of one estimator (`none` is −1, "not
valid"). -/
structure Best where
  max : F64
  th : Option Nat
  deriving DecidableEq, Repr

/-- `if Lmax < L or th < 0: Lmax = L; th = i` (R234). -/
def Best.update (b : Best) (l : F64) (i : Nat) : Best :=
  if F64.lt b.max l || b.th.isNone then ⟨l, some i⟩ else b

/-- The state of R234's pass: the moments of class 1 and the four estimators (10_state.md R53). -/
structure OTState where
  w1 : F64
  m1 : F64
  q1 : F64
  otsu : Best
  kittler : Best
  entropy : Best
  potential : Best
  deriving DecidableEq, Repr

/-- The levels `lo .. hi` with their counts, the empty ones left out: each of R234's inner loops either tests
`p[k] > 0` or adds a multiple of `p[k]`, which is 0.0 for an empty bin and changes no sum. -/
def populated (p : List Nat) (lo hi : Nat) : List (Nat × F64) :=
  (List.range' lo (hi + 1 - lo)).filterMap fun k =>
    if p.getD k 0 = 0 then none else some (k, binCount p k)

/-- `f64(i·i)·c` and the like: a level's contribution to a moment (R234). -/
def moment (f : Nat) (c : F64) : F64 := F64.mul (F64.ofNat f) c

/-- Totals `wt, mt, qt` (R234). -/
def totals (p : List Nat) (gmin gmax : Nat) : F64 × F64 × F64 :=
  (List.range' gmin (gmax + 1 - gmin)).foldl (fun t i =>
    let c := binCount p i
    (F64.add t.1 c, F64.add t.2.1 (moment i c), F64.add t.2.2 (moment (i * i) c)))
    (F64.zero, F64.zero, F64.zero)

/-- A class variance `q/w − m·m/w/w` (R234). -/
def classVariance (w m q : F64) : F64 :=
  F64.sub (F64.div q w) (F64.div (F64.div (F64.mul m m) w) w)

/-- The partition entropy terms of one class, subtracted from `l` (R234): `L − p[k]·LOG(p[k]/w)/w`. -/
def entropyTerms (cfg : Config) (l w : F64) (bins : List (Nat × F64)) : F64 :=
  bins.foldl (fun l kc => F64.sub l (F64.div (F64.mul kc.2 (cfg.log (F64.div kc.2 w))) w)) l

/-- `p[k]·f64(d)·f64(d)` (R234). -/
def squareTerm (c : F64) (d : Nat) : F64 := F64.mul (F64.mul c (F64.ofNat d)) (F64.ofNat d)

/-- The potential difference objective at split `i` (R234). -/
def potentialObjective (p : List Nat) (gmin gmax i : Nat) : F64 :=
  let v1 := (populated p gmin i).foldl (fun v kc => F64.add v (squareTerm kc.2 (i - kc.1))) F64.zero
  let vs := (populated p (i + 1) gmax).foldl (fun (v : F64 × F64) kc =>
    let dv := squareTerm kc.2 (kc.1 - i)
    (F64.sub v.1 dv, F64.add v.2 dv)) (v1, v1)
  if F64.lt F64.zero vs.2 then F64.neg (F64.abs (F64.div vs.1 vs.2)) else F64.zero

/-- One candidate split level of R234's pass. -/
def otCandidate (cfg : Config) (p : List Nat) (gmin gmax : Nat) (tot : F64 × F64 × F64) (st : OTState) (i : Nat) : OTState :=
  let c := binCount p i
  let w1 := F64.add st.w1 c
  let w2 := F64.sub tot.1 w1
  let m1 := F64.add st.m1 (moment i c)
  let m2 := F64.sub tot.2.1 m1
  let q1 := F64.add st.q1 (moment (i * i) c)
  let q2 := F64.sub tot.2.2 q1
  let s1 := classVariance w1 m1 q1
  let s2 := classVariance w2 m2 q2
  let otsuL := F64.neg (F64.add (F64.mul s1 w1) (F64.mul s2 w2))
  let kittlerL := F64.add (F64.mul w1 (cfg.log (F64.div w1 (F64.sqrt s1))))
    (F64.mul w2 (cfg.log (F64.div w2 (F64.sqrt s2))))
  let entropyL := entropyTerms cfg (entropyTerms cfg F64.zero w1 (populated p gmin i)) w2 (populated p (i + 1) gmax)
  { w1 := w1
    m1 := m1
    q1 := q1
    otsu := st.otsu.update otsuL i
    kittler :=
      if F64.lt F64.zero s1 && F64.lt F64.zero s2 then st.kittler.update kittlerL i else st.kittler
    entropy := st.entropy.update entropyL i
    potential := st.potential.update (potentialObjective p gmin gmax i) i }

/-- The pass over every candidate split level in `[gmin, gmax)` (R234). -/
def otPass (cfg : Config) (p : List Nat) (gmin gmax : Nat) : OTState :=
  let z : Best := ⟨F64.zero, none⟩
  (List.range' gmin (gmax - gmin)).foldl (otCandidate cfg p gmin gmax (totals p gmin gmax))
    ⟨F64.zero, F64.zero, F64.zero, z, z, z, z⟩

/-- The method's candidate (R230, R235); method 0 averages the valid ones, and has none when there is none. -/
def otSelect (st : OTState) (method : Nat) : Option Nat :=
  match method with
  | 1 => st.otsu.th
  | 2 => st.kittler.th
  | 3 => st.entropy.th
  | 4 => st.potential.th
  | _ =>
    let valid := [st.otsu.th, st.kittler.th, st.entropy.th, st.potential.th].filterMap id
    if valid = [] then none else some (valid.sum / valid.length)

/-- The final clamp (R235): a candidate outside the open interior, or none, falls back to the midpoint. -/
def otClamp (gmin gmax : Nat) : Option Nat → Nat
  | none => (gmin + gmax) / 2
  | some t => if t ≤ gmin ∨ gmax ≤ t then (gmin + gmax) / 2 else t

/-- The threshold of a histogram (R233-R235); `none` is −1. -/
def otHistogram (cfg : Config) (p : List Nat) (method : Nat) : Option Nat :=
  let gmin := grayMin p 255 0
  let gmax := grayMax p 255
  if gmax < gmin then none
  else if gmin = gmax then some (gmax - 1)
  else some (otClamp gmin gmax (otSelect (otPass cfg p gmin gmax) method))

/-- `OT(G, method, box, M)` (R231-R235) over an already clipped box; `none` is −1, "failure". -/
def optimalThreshold (cfg : Config) (g : Nat → Nat → Nat) (m : Nat → Nat → Bool) (method : Nat) (b : PixBox) : Option Nat :=
  if b.x0 < b.x1 ∧ b.y0 < b.y1 then otHistogram cfg (histogram g m b) method else none

/-- The mask of OT (R232): present pixels are those whose index is not 0. -/
def State.maskAt (s : State cfg) (m : Option (SlotNo cfg)) (x y : Nat) : Bool :=
  match m with
  | none => true
  | some i => (s.slot i).lane x y 0 != 0

/-- The checks of OPTTHRESH (60_exceptions.md R282 groups 2 to 5): its source and mask, or the first code. -/
def State.optCheck (s : State cfg) (sa sb : SlotArg) (method : BitVec 3) :
    Except ErrCode (SlotNo cfg × Option (SlotNo cfg)) :=
  match s.source sa, s.sourceOpt sb with
  | .ok a, .ok m =>
    if (s.slot a).depth != 2#2 then .error .unsupportedFormat
    else
      match s.requireMask m (s.slot a) with
      | .error e => .error e
      | .ok _ => if method.toNat ≤ 4 then .ok (a, m) else .error .invalidArgument
  | _, _ => .error .invalidBuffer

/-- The box of OPTTHRESH (R231): the operand's, clipped, or the full image. -/
def optBox (box : Option BoxArg) (t : Slot) : PixBox :=
  match box with
  | none => ⟨0, 0, t.width, t.height⟩
  | some q => clipBox q.x0.toInt q.y0.toInt q.x1.toInt q.y1.toInt t.width t.height

/-- OPTTHRESH (R236): RESULT takes the threshold, or −1 with NoThreshold; no slot is written. -/
def execOptthresh (sa sb : SlotArg) (method : BitVec 3) (box : Option BoxArg) (s : State cfg) :
    Host.Outcome (State cfg) Fault Refusal :=
  match s.optCheck sa sb method with
  | .error e => .next (s.failThreshold e)
  | .ok (a, m) =>
    let t := s.slot a
    let th := optimalThreshold cfg (fun x y => t.lane x y 0) (s.maskAt m) method.toNat (optBox box t)
    match th with
    | none => .next (s.failThreshold .noThreshold)
    | some v => .next (runBody (wholeBody fun s' => { s' with result := BitVec.ofNat 32 v }) s)

/-- The checks of ADAPTHRESH (R282 groups 2, 4 and 5): its source, mask and destination, or the first code. -/
def State.adaptCheck (s : State cfg) (sa sb sc : SlotArg) (method : BitVec 3) (balance : Word) :
    Except ErrCode (SlotNo cfg × Option (SlotNo cfg) × SlotNo cfg) :=
  match s.source sa, s.sourceOpt sb with
  | .ok a, .ok m =>
    match dest a sc with
    | .error e => .error e
    | .ok d =>
      match s.requireMask m (s.slot a) with
      | .error e => .error e
      | .ok _ =>
        if method.toNat ≤ 4 ∧ (F64.ofF32 balance).isNaN = false then .ok (a, m, d) else .error .invalidArgument
  | _, _ => .error .invalidBuffer

/-- `B = max(boxSize, 8)` (R238). -/
def cellSide (boxSize : Word) : Nat := max boxSize.toNat 8

/-- `bal = min(1.0, max(0.0, balance))` (R238). -/
def clampBalance (balance : Word) : F64 := F64.min F64.one (F64.max F64.zero (F64.ofF32 balance))

/-- `ceil(n / B)` (R239). -/
def cellCount (n side : Nat) : Nat := (n + side - 1) / side

/-- The box of cell number `c = tx + ty·mw`, clipped to the image (R239). -/
def cellBox (side mw w h c : Nat) : PixBox :=
  let tx := c % mw
  let ty := c / mw
  ⟨tx * side, ty * side, min (tx * side + side) w, min (ty * side + side) h⟩

/-- `cm(tx, ty)` (R240). -/
def cellValue (bias : Int) (bal : F64) (t g : Nat) : Nat :=
  clampTrunc (F64.add (F64.ofInt bias)
    (F64.add (F64.mul (F64.sub F64.one bal) (F64.ofNat t)) (F64.mul bal (F64.ofNat g))))

/-- The mask value of pixel (x, y) (R241): the cell mask resampled to `(mw·B) × (mh·B)`. -/
def maskValue (cfg : Config) (cells : List Nat) (side mw mh x y : Nat) : Nat :=
  cfg.resample (fun i j => cells.getD (i + j * mw) 0) mw mh (mw * side) (mh * side) x y

/-- ADAPTHRESH (R244): every cell threshold is found at its poll unit, and only then is the destination written. The
global threshold goes to RESULT with the completion, cancelled or not (20_memory.md R74, 60_exceptions.md R286,
R289). -/
def execAdaptthresh (sa sb sc : SlotArg) (method : BitVec 3) (boxSize bias balance : Word) (s : State cfg) :
    Host.Outcome (State cfg) Fault Refusal :=
  match s.adaptCheck sa sb sc method balance with
  | .error e => .next (s.failThreshold e)
  | .ok (a, m, d) =>
    let t := s.slot a
    let cls := t.cls
    let gray := t.grayvAs cls
    let ot := optimalThreshold cfg gray (s.maskAt m) method.toNat
    let side := cellSide boxSize
    let mw := cellCount t.width side
    let mh := cellCount t.height side
    match ot ⟨0, 0, t.width, t.height⟩ with
    | none => .next (s.failThreshold .noThreshold)
    | some g =>
      let ths := (List.range (mw * mh)).map fun c => ot (cellBox side mw t.width t.height c)
      let cells := ths.map fun th => cellValue bias.toInt (clampBalance balance) (th.getD 0) g
      .next (runBody
        { units := mw * mh
          fails := fun c => (ths.getD c none).isNone
          stopped := fun _ s' => { s' with result := BitVec.ofNat 32 g }
          finished := fun s' => { s' with result := BitVec.ofNat 32 g }.withSlot d
            (freshBw (s'.slot d) t.width t.height fun x y => decide (maskValue cfg cells side mw mh x y < gray x y)) }
        s)

/-- The checks of THRESHMASK (R282 groups 2 and 4): its source, mask and destination, or the first code. -/
def State.maskCheck (s : State cfg) (sa sb sc : SlotArg) :
    Except ErrCode (SlotNo cfg × SlotNo cfg × SlotNo cfg) :=
  match s.source sa, s.source sb with
  | .ok a, .ok m =>
    match dest a sc with
    | .error e => .error e
    | .ok d => if maskFits (s.slot m) (s.slot a) then .ok (a, m, d) else .error .dimensionMismatch
  | _, _ => .error .invalidBuffer

/-- THRESHMASK (R245): foreground where the gray value exceeds the mask value (R242). -/
def execThreshmask (sa sb sc : SlotArg) (s : State cfg) : Host.Outcome (State cfg) Fault Refusal :=
  match s.maskCheck sa sb sc with
  | .error e => .next (s.fail e)
  | .ok (a, m, d) =>
    let t := s.slot a
    let gray := t.grayvAs t.cls
    .next (runBody (wholeBody fun s' => s'.withSlot d (freshBw (s'.slot d) t.width t.height fun x y =>
      decide ((s.slot m).lane x y 0 < gray x y))) s)

end Sys2Proof.Machine
end

