-- ==== Sys2Proof/Machine/Region.lean ====
section
/-! DEFINITION. The region unit: FLOODFILL and TRACE (45_region.md R260-R267). -/

namespace Sys2Proof.Machine

variable {cfg : Config}

/-- A pixel position. -/
abbrev Pt := Nat × Nat

/-- The position (x + dx, y + dy), where it is inside an image of `w × h` pixels (40_common.md R123). -/
def movePt (w h : Nat) (p : Pt) (dx dy : Int) : Option Pt :=
  let u : Int := (p.1 : Int) + dx
  let v : Int := (p.2 : Int) + dy
  if 0 ≤ u ∧ u < w ∧ 0 ≤ v ∧ v < h then some (u.toNat, v.toNat) else none

/-! ### FLOODFILL -/

/-- The match test (R260): every lane of (u, v) within `tol` of the seed's, the bounds limited to 0..255. -/
def fillMatches (t : Slot) (seed : Pt) (tol : Nat) (p : Pt) : Bool :=
  (List.range t.lanes).all fun ch =>
    let ref := t.lane seed.1 seed.2 ch
    decide (ref - tol ≤ t.lane p.1 p.2 ch) && decide (t.lane p.1 p.2 ch ≤ min 255 (ref + tol))

/-- The visited mask M, as the visited positions (latest first), and the queue (R262, 10_state.md R55). -/
structure FillState where
  seen : List Pt
  queue : List Pt
  deriving DecidableEq, Repr

/-- The fixed neighbour order (R262): west, south, east, north. -/
def fillDirs : List (Int × Int) := [(-1, 0), (0, -1), (1, 0), (0, 1)]

/-- One neighbour of `p` considered (R262): visited and queued when it is inside, in scope, not yet visited, and
matches. -/
def fillVisit (t : Slot) (seed : Pt) (tol : Nat) (p : Pt) (st : FillState) (d : Int × Int) : FillState :=
  match movePt t.width t.height p d.1 d.2 with
  | none => st
  | some q =>
    if !st.seen.contains q && t.inscope q.1 q.2 && fillMatches t seed tol q then
      ⟨q :: st.seen, st.queue ++ [q]⟩
    else st

/-- The breadth-first search (R262): the first of the queue is taken and its neighbours considered, until the
queue is empty. Each pixel is queued at most once, so `W·H` rounds empty it. -/
def fillLoop (t : Slot) (seed : Pt) (tol : Nat) : Nat → FillState → FillState
  | 0, st => st
  | fuel + 1, st =>
    match st.queue with
    | [] => st
    | p :: rest => fillLoop t seed tol fuel (fillDirs.foldl (fillVisit t seed tol p) ⟨st.seen, rest⟩)

/-- The visited positions of a fill from `seed`, which is always visited (R262). -/
def filled (t : Slot) (seed : Pt) (tol : Nat) : List Pt :=
  (fillLoop t seed tol (t.area + 1) ⟨[seed], [seed]⟩).seen

/-- `(fill·op + old·(255 − op)) >> 8`, or `fill` when `op = 255` (R261). -/
def blend (fill op old : Nat) : Nat := if op = 255 then fill else (fill * op + old * (255 - op)) >>> 8

/-- The painted value of lane `ch` of a pixel whose lane held `old` (R261), for `op ≠ 0`: RGB24 and GRAY8 blend, IDX8
and IDX1 take the index. -/
def paintLane (cls : ImgClass) (color : Color) (index : Byte) (op : Nat) (ch old : Nat) : Nat :=
  match cls with
  | .rgb24 => blend (if ch = 0 then color.r.toNat else if ch = 1 then color.g.toNat else color.b.toNat) op old
  | .gray8 => blend index.toNat op old
  | .idx1 => index.toNat % 2
  | _ => index.toNat

/-- The slot with its visited pixels painted (R261); opacity 0 "paints nothing". -/
def fillPaint (t : Slot) (seen : List Pt) (color : Color) (index opacity : Byte) : Slot :=
  if opacity = 0 then t
  else
    let cls := t.cls
    t.paint (fun x y => seen.contains (x, y)) fun x y ch =>
      paintLane cls color index opacity.toNat ch (t.lane x y ch)

/-- The selection byte of offset `o` after the OR of R263, from the selection of the snapshot `t` (a new, empty one
when SELV = 0). -/
def trackByte (t : Slot) (seen : List Pt) (level : Byte) (o : Nat) : Byte :=
  let old := if t.selv then t.selByte o else 0#8
  if seen.contains (o % t.width, o / t.width) then old ||| level else old

/-- Membership of `now` (R263): selected before the command, or visited and selected after it. -/
def trackNow (t : Slot) (seen : List Pt) (level : Byte) (p : Pt) : Bool :=
  (t.selv && t.inscope p.1 p.2) ||
    (seen.contains p && trackByte t seen level (p.2 * t.width + p.1) != 0#8)

/-- The bounding box of a list of positions, upper bounds exclusive; all zero for the empty list (R263). -/
def boundingBox (ps : List Pt) : PixBox :=
  match ps with
  | [] => ⟨0, 0, 0, 0⟩
  | p :: r =>
    r.foldl (fun b q => ⟨min b.x0 q.1, min b.y0 q.2, max b.x1 (q.1 + 1), max b.y1 (q.2 + 1)⟩)
      ⟨p.1, p.2, p.1 + 1, p.2 + 1⟩

/-- `track(M)` (R263) on the slot `d`, whose selection before the command is the snapshot `t`'s. -/
def trackSelection (t d : Slot) (seen : List Pt) (level : Byte) : Slot :=
  let b := boundingBox ((PixBox.pixels ⟨0, 0, t.width, t.height⟩).filter (trackNow t seen level))
  { d with
    selv := true
    sel := memPatch t.area (fun o =>
      if t.selv && !seen.contains (o % t.width, o / t.width) then none else some (trackByte t seen level o)) d.sel
    bx0 := BitVec.ofNat 16 b.x0
    by0 := BitVec.ofNat 16 b.y0
    bx1 := BitVec.ofNat 16 b.x1
    by1 := BitVec.ofNat 16 b.y1 }

/-- The seed, when it is inside the image and in scope (R262). -/
def fillSeed (t : Slot) (x0 y0 : BitVec 16) : Option Pt :=
  match movePt t.width t.height (0, 0) x0.toInt y0.toInt with
  | none => none
  | some p => if t.inscope p.1 p.2 then some p else none

/-- The whole effect of a fill on its slot (R262): a seed outside the image or the selection changes nothing. -/
def fillSlot (t : Slot) (track : Bool) (x0 y0 : BitVec 16) (color : Color) (index tolerance opacity level : Byte) :
    Slot :=
  match fillSeed t x0 y0 with
  | none => t
  | some seed =>
    let seen := filled t seed tolerance.toNat
    let d := fillPaint t seen color index opacity
    if track then trackSelection t d seen level else d

/-- The checks of FLOODFILL (60_exceptions.md R282 groups 2 and 5). -/
def State.fillCheck (s : State cfg) (sa : SlotArg) (index : Byte) : Except ErrCode (SlotNo cfg) :=
  match s.source sa with
  | .error e => .error e
  | .ok a =>
    if (s.slot a).indexed && decide ((s.slot a).paln.toNat ≤ index.toNat) then .error .invalidArgument else .ok a

/-- FLOODFILL (R262). -/
def execFloodfill (sa : SlotArg) (track : Bool) (x0 y0 : BitVec 16) (color : Color)
    (index tolerance opacity level : Byte) (s : State cfg) : Host.Outcome (State cfg) Fault Refusal :=
  match s.fillCheck sa index with
  | .error e => .next (s.fail e)
  | .ok a =>
    .next (runBody (wholeBody fun s' =>
      s'.withSlot a (fillSlot (s'.slot a) track x0 y0 color index tolerance opacity level)) s)

/-! ### TRACE -/

/-- The direction table (R264): eighths of a turn counter-clockwise from east, y upward. -/
def traceDir (d : Nat) : Int × Int :=
  match d with
  | 0 => (1, 0)
  | 1 => (1, 1)
  | 2 => (0, 1)
  | 3 => (-1, 1)
  | 4 => (-1, 0)
  | 5 => (-1, -1)
  | 6 => (0, -1)
  | _ => (1, -1)

/-- The state of the walk (R266, 10_state.md R56): current point, probe direction, consecutive misses, accepted
moves, and the points drawn (latest first). -/
structure TraceState where
  cur : Pt
  dir : Nat
  miss : Nat
  moves : Nat
  drawn : List Pt
  deriving DecidableEq, Repr

/-- Whether the pixel one step from `p` in direction `d` is inside and has the target colour, and which it is. -/
def traceProbe (t : Slot) (target : Color) (p : Pt) (d : Nat) : Option Pt :=
  match movePt t.width t.height p (traceDir d).1 (traceDir d).2 with
  | none => none
  | some q => if t.color q.1 q.2 = target then some q else none

/-- The loop of `walk` (R266). Nine failed probes in a row, the return to the start, or `8·W·H` moves end it, so
`72·W·H + 9` probes are enough. -/
def traceLoop (t : Slot) (target : Color) (start : Pt) : Nat → TraceState → TraceState
  | 0, st => st
  | fuel + 1, st =>
    match traceProbe t target st.cur st.dir with
    | some q =>
      let st' : TraceState := ⟨q, (st.dir + 6) % 8, 0, st.moves + 1, q :: st.drawn⟩
      if q = start ∨ 8 * t.area ≤ st'.moves then st' else traceLoop t target start fuel st'
    | none =>
      let st' : TraceState := ⟨st.cur, (st.dir + 1) % 8, st.miss + 1, st.moves, st.drawn⟩
      if st'.miss = 9 then st' else traceLoop t target start fuel st'

/-- The trace's start (R265): the first pixel of the target colour, bottom to top, left to right. -/
def traceStart (t : Slot) (target : Color) : Option Pt :=
  (PixBox.pixels ⟨0, 0, t.width, t.height⟩).find? fun p => t.color p.1 p.2 == target

/-- The points the trace draws; none without a start (R265-R267). -/
def tracePoints (t : Slot) (target : Color) : List Pt :=
  match traceStart t target with
  | none => []
  | some start => (traceLoop t target start (72 * t.area + 9) ⟨start, 0, 0, 0, [start]⟩).drawn

/-- The checks of TRACE (60_exceptions.md R282 group 2). -/
def State.traceCheck (s : State cfg) (sa sb : SlotArg) : Except ErrCode (SlotNo cfg × SlotNo cfg) :=
  match s.source sa with
  | .error e => .error e
  | .ok a =>
    match dest a sb with
    | .error e => .error e
    | .ok d => .ok (a, d)

/-- TRACE (R267): a white image with the traced contour. -/
def execTrace (sa sb : SlotArg) (target traceColor : Color) (s : State cfg) : Host.Outcome (State cfg) Fault Refusal :=
  match s.traceCheck sa sb with
  | .error e => .next (s.fail e)
  | .ok (a, d) =>
    let t := s.slot a
    let pts := tracePoints t target
    .next (runBody (wholeBody fun s' => s'.withSlot d (freshRgb24 cfg (s'.slot d) t.width t.height fun x y =>
      if pts.contains (x, y) then traceColor else ⟨255, 255, 255⟩)) s)

end Sys2Proof.Machine
end

