-- ==== Sys2Proof/Machine/Dispatch.lean ====
section
/-! DEFINITION. The engine's turn of each command of the opcode table (30_encoding.md R101): one arm per
constructor, one call of its meaning. -/

namespace Sys2Proof.Machine

def exec (i : Instr) (s : State) : Host.Outcome State Fault Refusal :=
  match i with
  | .filter sa sb k factor bias => Sys2Proof.Machine.execFilter sa sb k factor bias s
  | .erode sa sb k => Sys2Proof.Machine.execErode sa sb k s
  | .dilate sa sb k => Sys2Proof.Machine.execDilate sa sb k s
  | .edge sa sb k => Sys2Proof.Machine.execEdge sa sb k s
  | .contour sa sb => Sys2Proof.Machine.execContour sa sb s
  | .gaussblur sa sb radius => Sys2Proof.Machine.execGaussblur sa sb radius s
  | .unsharp sa sb radius amount threshold => Sys2Proof.Machine.execUnsharp sa sb radius amount threshold s
  | .selblur sa sb radius threshold => Sys2Proof.Machine.execSelblur sa sb radius threshold s
  | .median sa sb k => Sys2Proof.Machine.execMedian sa sb k s
  | .fft2 sa sb sc sd inv pow2 mag => Sys2Proof.Machine.execFft2 sa sb sc sd inv pow2 mag s
  | .optthresh sa sb method box => Sys2Proof.Machine.execOptthresh sa sb method box s
  | .adaptthresh sa sb sc method boxSize bias balance => Sys2Proof.Machine.execAdaptthresh sa sb sc method boxSize bias balance s
  | .threshmask sa sb sc => Sys2Proof.Machine.execThreshmask sa sb sc s
  | .floodfill sa track x0 y0 color index tolerance opacity level => Sys2Proof.Machine.execFloodfill sa track x0 y0 color index tolerance opacity level s
  | .trace sa sb target traceColor => Sys2Proof.Machine.execTrace sa sb target traceColor s

end Sys2Proof.Machine
end

