-- ==== Sys2Proof/Machine/Access.lean ====
section
/-! DEFINITION. Host accesses (20_memory.md R60-R79): the address map, legality, reads and writes, and the writes
with effects of their own (10_state.md R26, R27). -/

namespace Sys2Proof.Machine

variable {cfg : Config}

/-- What a host address selects (R61-R68). -/
inductive Loc (cfg : Config) where
  | id
  | ctrl
  | status
  | progress
  | result
  | caps
  | cmd (i : Fin 8)
  | sdim (s : SlotNo cfg)
  | sfmt (s : SlotNo cfg)
  | sbox0 (s : SlotNo cfg)
  | sbox1 (s : SlotNo cfg)
  | kram (i : Nat)
  | pal (s : SlotNo cfg) (i : Nat)
  | pix (s : SlotNo cfg) (off : Nat)
  | alp (s : SlotNo cfg) (off : Nat)
  | sel (s : SlotNo cfg) (off : Nat)
  | unmapped
  deriving DecidableEq, Repr

/-- The number of KRAM entries, KMAX² (10_state.md R35). -/
def kramSize (cfg : Config) : Nat := cfg.kmax * cfg.kmax

/-- The register at an offset below 0x1000 (10_state.md R23): word offset `o / 4` of an offset that is a multiple of
4. -/
def locateRegister (cfg : Config) (o : Nat) : Loc cfg :=
  if o % 4 ≠ 0 then .unmapped
  else if o = 0x000 then .id
  else if o = 0x004 then .ctrl
  else if o = 0x008 then .status
  else if o = 0x00C then .progress
  else if o = 0x010 then .result
  else if o = 0x014 then .caps
  else if 0x020 ≤ o ∧ o < 0x040 then .cmd (Fin.ofNat 8 ((o - 0x020) / 4))
  else if h : 0x100 ≤ o ∧ (o - 0x100) / 0x10 < cfg.nslot then
    match (o - 0x100) % 0x10 / 4 with
    | 0 => .sdim ⟨(o - 0x100) / 0x10, h.2⟩
    | 1 => .sfmt ⟨(o - 0x100) / 0x10, h.2⟩
    | 2 => .sbox0 ⟨(o - 0x100) / 0x10, h.2⟩
    | _ => .sbox1 ⟨(o - 0x100) / 0x10, h.2⟩
  else if 0x800 ≤ o ∧ (o - 0x800) / 4 < kramSize cfg then .kram ((o - 0x800) / 4)
  else .unmapped

/-- A plane address: mapped when the slot exists and the offset lies in the plane (R65-R67). -/
def locatePlane (mk : SlotNo cfg → Nat → Loc cfg) (s off : Nat) : Loc cfg :=
  if h : s < cfg.nslot then (if off < cfg.planeBytes then mk ⟨s, h⟩ off else .unmapped) else .unmapped

/-- The region decode (R61-R68). -/
def locate (cfg : Config) (a : Word) : Loc cfg :=
  let n := a.toNat
  let s := n / 2 ^ 24 % 16
  let off := n % 2 ^ 24
  match n / 2 ^ 28 with
  | 0 => if n < 0x1000 then locateRegister cfg n else .unmapped
  | 1 =>
    if h : s < cfg.nslot then
      (if off < 0x400 ∧ off % 4 = 0 then .pal ⟨s, h⟩ (off / 4) else .unmapped)
    else .unmapped
  | 2 => locatePlane .pix s off
  | 3 => locatePlane .alp s off
  | 4 => locatePlane .sel s off
  | _ => .unmapped

/-- The number of bytes of an access (R63). -/
def Width.bytes : Width → Nat
  | .one => 1
  | .two => 2
  | .four => 4

/-- Whether a location is in a plane. -/
def Loc.isPlane : Loc cfg → Bool
  | .pix _ _ => true
  | .alp _ _ => true
  | .sel _ _ => true
  | _ => false

/-- The offset of a plane location; 0 of the others. -/
def Loc.offset : Loc cfg → Nat
  | .pix _ o => o
  | .alp _ o => o
  | .sel _ o => o
  | _ => 0

/-- `legal(addr, n)` (R71, R72): aligned, mapped, of a width the region allows, a plane access wholly inside its
plane. -/
def legal (cfg : Config) (a : Word) (n : Width) : Bool :=
  decide (a.toNat % n.bytes = 0) && locate cfg a != .unmapped &&
    (if (locate cfg a).isPlane then decide ((locate cfg a).offset + n.bytes ≤ cfg.planeBytes) else n == .four)

/-- Whether a read of the location while BUSY = 1 returns any value (R79): the descriptors, KRAM, the palettes and
the planes. -/
def Loc.busyUnspecified : Loc cfg → Bool
  | .sdim _ => true
  | .sfmt _ => true
  | .sbox0 _ => true
  | .sbox1 _ => true
  | .kram _ => true
  | .pal _ _ => true
  | .pix _ _ => true
  | .alp _ _ => true
  | .sel _ _ => true
  | _ => false

/-- Whether a location is writable and its write dropped with HAZ while BUSY = 1 (R78): those of R79 and the CMD
words. -/
def Loc.busyDropped : Loc cfg → Bool
  | .cmd _ => true
  | l => l.busyUnspecified

/-- CMD word `i` (10_state.md R31). -/
def cmdWordAt (c : CmdBlock) (i : Fin 8) : Word :=
  match i with
  | 0 => c.w0
  | 1 => c.w1
  | 2 => c.w2
  | 3 => c.w3
  | 4 => c.w4
  | 5 => c.w5
  | 6 => c.w6
  | 7 => c.w7

/-- The block with CMD word `i` replaced (R31). -/
def cmdWithWord (c : CmdBlock) (i : Fin 8) (v : Word) : CmdBlock :=
  match i with
  | 0 => { c with w0 := v }
  | 1 => { c with w1 := v }
  | 2 => { c with w2 := v }
  | 3 => { c with w3 := v }
  | 4 => { c with w4 := v }
  | 5 => { c with w5 := v }
  | 6 => { c with w6 := v }
  | 7 => { c with w7 := v }

/-- An n-byte value zero-extended (40_common.md R141), from a word's low bytes. -/
def truncTo (n : Width) (v : Word) : Word :=
  match n with
  | .one => (v.extractLsb' 0 8).setWidth 32
  | .two => (v.extractLsb' 0 16).setWidth 32
  | .four => v

/-- n bytes of a plane from offset `o` on, assembled little-endian (R69). -/
def planeWord (byte : Nat → Byte) (o : Nat) (n : Width) : Word :=
  match n with
  | .one => (byte o).setWidth 32
  | .two => (byte (o + 1) ++ byte o).setWidth 32
  | .four => byte (o + 3) ++ byte (o + 2) ++ byte (o + 1) ++ byte o

/-- The value of a legal read (R63) with no command in progress, or of a register read at any time (R79). -/
def readLoc (s : State cfg) (n : Width) : Loc cfg → Word
  | .id => regId
  | .ctrl => ctrlWord s
  | .status => statusWord s
  | .progress => progressWord s
  | .result => s.result
  | .caps => regCaps cfg
  | .cmd i => cmdWordAt s.cmd i
  | .sdim t => (s.slot t).sdim
  | .sfmt t => (s.slot t).sfmt
  | .sbox0 t => (s.slot t).sbox0
  | .sbox1 t => (s.slot t).sbox1
  | .kram i => (s.coef i).setWidth 32
  | .pal t i => colorWord ((s.slot t).palEntry i)
  | .pix t o => planeWord (s.slot t).pixByte o n
  | .alp t o => planeWord (s.slot t).alpByte o n
  | .sel t o => planeWord (s.slot t).selByte o n
  | .unmapped => 0#32

/-- `MemRead(addr, n)` (R63): the value returned to the host. -/
def memRead (s : State cfg) (a : Word) (n : Width) : Word :=
  if !legal cfg a n then 0#32
  else if s.busy && (locate cfg a).busyUnspecified then truncTo n (Config.busyRead s.draws)
  else readLoc s n (locate cfg a)

/-- The state after a read: its value has gone to the host, and the number of an unspecified value is used up. No
other part of the state changes ("No read has a side effect", R73). -/
def hostRead (s : State cfg) (a : Word) (n : Width) : State cfg :=
  { s with replies := memRead s a n :: s.replies, draws := s.draws + 1 }

/-- The n bytes of a value stored at `o .. o+n-1` of a plane, little-endian (R63, R69). -/
def planeStore (m : List Host.Cell) (o : Nat) (n : Width) (v : Word) : List Host.Cell :=
  match n with
  | .one => memPut o (v.extractLsb' 0 8) m
  | .two => memPut (o + 1) (v.extractLsb' 8 8) (memPut o (v.extractLsb' 0 8) m)
  | .four =>
    memPut (o + 3) (v.extractLsb' 24 8) (memPut (o + 2) (v.extractLsb' 16 8)
      (memPut (o + 1) (v.extractLsb' 8 8) (memPut o (v.extractLsb' 0 8) m)))

/-- A write of CTRL (10_state.md R26, R78, 70_reset_and_hazards.md R313): SRESET alone decides when it is set;
otherwise CANCEL and IE take their new values, and then START is accepted, or sets HAZ while BUSY = 1. -/
def writeCtrl (s : State cfg) (v : Word) : State cfg :=
  if v.getLsbD 31 then s.softReset
  else
    let s' := { s with cancel := v.getLsbD 1, ie := v.getLsbD 2 }
    if v.getLsbD 0 then (if s.busy then { s' with haz := true } else s'.accept) else s'

/-- A write of STATUS (R27): 1 clears DONE (60_exceptions.md R291) and HAZ; nothing else. -/
def writeStatus (s : State cfg) (v : Word) : State cfg :=
  let s' := if v.getLsbD 1 then s.acknowledge else s
  if v.getLsbD 3 then { s' with haz := false } else s'

/-- The slot after a palette write (R64): bits [31:24] are ignored. -/
def Slot.withPal (t : Slot) (i : Nat) (v : Word) : Slot := { t with pal := memPut i (rgbArg v) t.pal }

/-- A legal write at a location that is not dropped (R63); a read-only register ignores it (R32). -/
def writeLoc (s : State cfg) (n : Width) (v : Word) : Loc cfg → State cfg
  | .ctrl => writeCtrl s v
  | .status => writeStatus s v
  | .cmd i => { s with cmd := cmdWithWord s.cmd i v }
  | .sdim t => s.withSlot t ((s.slot t).withSdim v)
  | .sfmt t => s.withSlot t ((s.slot t).withSfmt v)
  | .sbox0 t => s.withSlot t ((s.slot t).withSbox0 v)
  | .sbox1 t => s.withSlot t ((s.slot t).withSbox1 v)
  | .kram i => { s with kram := memPut i (v.extractLsb' 0 16) s.kram }
  | .pal t i => s.withSlot t ((s.slot t).withPal i v)
  | .pix t o => s.withSlot t { s.slot t with pix := planeStore (s.slot t).pix o n v }
  | .alp t o => s.withSlot t { s.slot t with alp := planeStore (s.slot t).alp o n v }
  | .sel t o => s.withSlot t { s.slot t with sel := planeStore (s.slot t).sel o n v }
  | .id => s
  | .progress => s
  | .result => s
  | .caps => s
  | .unmapped => s

/-- `MemWrite(addr, n, v)` (R63, R78). -/
def hostWrite (s : State cfg) (a : Word) (n : Width) (v : Word) : State cfg :=
  if !legal cfg a n then s
  else if s.busy && (locate cfg a).busyDropped then { s with haz := true }
  else writeLoc s n v (locate cfg a)

/-- The host's, or the power supply's, turn. -/
def hostAct (s : State cfg) : HostAct → State cfg
  | .read a n => hostRead s a n
  | .write a n v => hostWrite s a n v
  | .powerOn => s.powerOn

end Sys2Proof.Machine
end

