-- ==== Sys2Proof/Machine/Turn.lean ====
section
/-! DEFINITION. Which agent moves next (10_state.md R20; assumption 4), the way the running command is taken from its
latch (10_state.md R36, 20_memory.md R83), and the shape of a step. -/

namespace Sys2Proof.Machine

variable {cfg : Config}

/-- The three kinds of turn. -/
inductive Turn where
  /-- nothing to do: no command in progress, and the host does nothing further -/
  | idle
  /-- the host, or the power supply, acts -/
  | host (e : HostEvent) (rest : List HostEvent)
  /-- the engine runs the command in its latch -/
  | engine (j : Job)
  deriving DecidableEq, Repr

/-- Whose turn it is: with a command in progress the engine moves until the host's next access is due (R323, R324);
with none the host moves, the engine making "no change to any state" (20_memory.md R77). -/
def State.turn (s : State cfg) : Turn :=
  match s.host, s.job with
  | [], none => .idle
  | [], some j => .engine j
  | e :: r, none => .host e r
  | e :: r, some j => if e.wait = 0 then .host e r else .engine j

/-- The state after the host's event `e`, with `rest` still to come. -/
def State.hostTurn (s : State cfg) (e : HostEvent) (rest : List HostEvent) : State cfg :=
  hostAct { s with host := rest } e.act

/-- One step of a machine whose engine runs a command as `run` says. On the engine's turn the latched block is decoded
and the command runs (40_common.md R112); a block that is no command completes with IllegalCommand (30_encoding.md
R104, R105). With nothing to do the state stays. -/
def stepBy (run : Instr → State cfg → Host.Outcome (State cfg) Fault Refusal) (s : State cfg) :
    Host.Outcome (State cfg) Fault Refusal :=
  match s.turn with
  | .idle => .next s
  | .host e rest => .next (s.hostTurn e rest)
  | .engine j =>
    match decode j.cmd with
    | .ok i => run i s
    | .error _ => .next (s.illegalCommand j.cmd)

/-- The state in which the very next turn is the engine's, with the block `c` just latched: the host has written `c`
into CMD0..CMD7 and then START (40_common.md R111), and does nothing further. -/
def State.started (s : State cfg) (c : CmdBlock) : State cfg := { s with cmd := c, host := [] }.accept

end Sys2Proof.Machine
end

