-- ==== Sys2Proof/Machine/Step.lean ====
section
/-! DEFINITION. One step of the machine: the engine's turn or the host's (10_state.md R20). -/

namespace Sys2Proof.Machine

/-- One step of the machine of the default configuration. -/
def step (s : State) : Host.Outcome State Fault Refusal := stepBy exec s

/-- The state with the instruction of the table word `w` (the bits from `nbits` on being 0) in CMD0..CMD7 and just
started, so that the next step runs it. -/
def State.withFetchWord (s : State) (nbits w : Nat) : State := s.started (blockOfNat (w % 2 ^ nbits))

end Sys2Proof.Machine
end

