-- ==== Sys2Proof/Machine/Configured.lean ====
section
/-! DEFINITION. The machine of any configuration (00_scope.md R9). `exec` and `step`, whose types the host fixes, are
this machine at the default (Laws/Config.lean). -/

namespace Sys2Proof.Machine

/-- The engine's turn of each command (30_encoding.md R101), in any configuration. -/
def execOf {cfg : Config} (i : Instr) (s : State cfg) : Host.Outcome (State cfg) Fault Refusal :=
  match i with
  | .filter sa sb k factor bias => execFilter sa sb k factor bias s
  | .erode sa sb k => execErode sa sb k s
  | .dilate sa sb k => execDilate sa sb k s
  | .edge sa sb k => execEdge sa sb k s
  | .contour sa sb => execContour sa sb s
  | .gaussblur sa sb radius => execGaussblur sa sb radius s
  | .unsharp sa sb radius amount threshold => execUnsharp sa sb radius amount threshold s
  | .selblur sa sb radius threshold => execSelblur sa sb radius threshold s
  | .median sa sb k => execMedian sa sb k s
  | .fft2 sa sb sc sd inv pow2 mag => execFft2 sa sb sc sd inv pow2 mag s
  | .optthresh sa sb method box => execOptthresh sa sb method box s
  | .adaptthresh sa sb sc method boxSize bias balance => execAdaptthresh sa sb sc method boxSize bias balance s
  | .threshmask sa sb sc => execThreshmask sa sb sc s
  | .floodfill sa track x0 y0 color index tolerance opacity level =>
    execFloodfill sa track x0 y0 color index tolerance opacity level s
  | .trace sa sb target traceColor => execTrace sa sb target traceColor s

/-- One step of the machine of a configuration. -/
def stepOf (cfg : Config) (s : State cfg) : Host.Outcome (State cfg) Fault Refusal := stepBy execOf s

/-- The machine of a configuration, as the host's interface takes one. -/
def machineOf (cfg : Config) : Host.Core where
  State := State cfg
  Fault := Fault
  Refusal := Refusal
  step := stepOf cfg
  reset := State.resetOf cfg

end Sys2Proof.Machine
end

