-- ==== Sys2Proof/Safety.lean ====
section
/-! DEFINITION. The terms in which statements speak of good states, of what a command leaves alone, and of what its
results are, said apart from the meanings that compute them. -/

namespace Sys2Proof.Machine

/-! ### Good states -/

/-- Every memory of a slot is in canonical form. -/
def Slot.memoriesWf (t : Slot) : Bool :=
  memWf 256 t.pal && memWf Config.default.planeBytes t.pix &&
    memWf Config.default.planeBytes t.alp && memWf Config.default.planeBytes t.sel

/-- Every memory of the machine is in canonical form. -/
def State.memoryWf (s : State) : Bool :=
  memWf (kramSize .default) s.kram && s.slots.toList.all Slot.memoriesWf

/-- The status registers agree with one another: PROGRESS is a percentage (10_state.md R29), and a command in progress
has no outcome yet (40_common.md R111, R118; 60_exceptions.md R292). -/
def State.statusWf (s : State) : Prop :=
  s.progress.toNat ≤ 100 ∧ (s.busy = true → s.done = false ∧ s.cancelled = false ∧ s.err = .ok)

/-- The invariant of the machine. -/
def State.Inv (s : State) : Prop := s.memoryWf = true ∧ s.statusWf

/-- The host does nothing before the running command, a body of `n` units of three engine steps each, has completed. -/
def State.quiet (s : State) (n : Nat) : Prop := ∀ q, s.nextStop = some q → 3 * n < q

/-- None of the polls before the `m`-th stops the running command: none has read CANCEL = 1, and none that is still to
come will, CANCEL staying as it is (40_common.md R133). -/
def State.pollsPass (s : State) (m : Nat) : Prop :=
  m ≤ s.unitsDone ∨
    (s.phase ≠ .stopping ∧ (s.cancel = false ∨ (s.phase = .passed ∧ m ≤ s.unitsDone + 1)))

/-- Poll `k` of `n` is the one that stops the running command: it has read CANCEL = 1, or it is the next that reads
CANCEL, which is 1 (R133). -/
def State.stopsAt (s : State) (n k : Nat) : Prop :=
  k < n ∧
    match s.phase with
    | .stopping => k = s.unitsDone
    | .passed => s.cancel = true ∧ k = s.unitsDone + 1
    | .reported => s.cancel = true ∧ k = s.unitsDone
    | .toPoll => s.cancel = true ∧ k = s.unitsDone

/-- PROGRESS after poll `k` of `n`, which the engine has taken already or is still to take (R133). -/
def State.polledProgress (s : State) (n k : Nat) : BitVec 8 :=
  match s.phase with
  | .stopping => s.progress
  | .reported => s.progress
  | .passed => BitVec.ofNat 8 (100 * k / n)
  | .toPoll => BitVec.ofNat 8 (100 * k / n)

/-- The number of an error code in STATUS.ERR (60_exceptions.md R280). -/
def errNumber : ErrCode → Nat
  | .ok => 0
  | .invalidBuffer => 1
  | .dimensionMismatch => 2
  | .unsupportedFormat => 3
  | .invalidArgument => 4
  | .illegalCommand => 6
  | .noThreshold => 7

/-! ### What a step leaves alone -/

/-- From `s` to `t` no register or memory outside STATUS, PROGRESS, RESULT and the slots changes: CTRL, HAZ, the CMD
words, KRAM, and the model's own fields. -/
structure KeepsControl (s t : State) : Prop where
  cancel : t.cancel = s.cancel
  ie : t.ie = s.ie
  haz : t.haz = s.haz
  cmd : t.cmd = s.cmd
  kram : ∀ i, t.coef i = s.coef i
  host : t.host = s.host
  replies : t.replies = s.replies
  draws : t.draws = s.draws

/-- From `s` to `t` a command completed with `code` and PROGRESS `p` (40_common.md R118). -/
structure Completed (s t : State) (code : ErrCode) (cancelled : Bool) (p : BitVec 8) : Prop where
  control : KeepsControl s t
  err : t.err = code
  cancelled : t.cancelled = cancelled
  progress : t.progress = p
  done : t.done = true
  idle : t.busy = false

/-- A successful completion. -/
abbrev Succeeded (s t : State) : Prop := Completed s t .ok false 100

/-- Every slot but those listed is as it was: descriptor, palette and every byte. -/
def OthersKept (s t : State) (ds : List (SlotNo)) : Prop := ∀ i, i ∉ ds → t.slot i = s.slot i

/-! ### The image a same-format command leaves -/

/-- The byte offset of lane `ch` of pixel (x, y) (10_state.md R46). -/
def Slot.offsetOf (t : Slot) (x y ch : Nat) : Nat := (y * t.width + x) * t.bpb + ch

/-- The slot `new`, earlier `old`, holds an image of `src`'s size, format, selection and palette (40_common.md
R117). -/
structure SameDescriptor (src new : Slot) : Prop where
  w : new.w = src.w
  h : new.h = src.h
  depth : new.depth = src.depth
  alpha : new.alpha = src.alpha
  selv : new.selv = src.selv
  paln : new.paln = src.paln
  bx0 : new.bx0 = src.bx0
  by0 : new.by0 = src.by0
  bx1 : new.bx1 = src.bx1
  by1 : new.by1 = src.by1

/-- What a same-format command leaves in its destination (40_common.md R117, R121, R132): `new` is `src`'s image
but that each lane of a pixel `wr x y` satisfies `post x y ch`; every byte beyond the image, and the alpha and
selection bytes that `src` has none of, are `old`'s. -/
structure ResultImage (src old new : Slot) (wr : Nat → Nat → Prop) (post : Nat → Nat → Nat → Byte → Prop) : Prop where
  descriptor : SameDescriptor src new
  palette : ∀ i, i < 256 → new.palEntry i = src.palEntry i
  written : ∀ x y ch, x < src.width → y < src.height → ch < src.lanes → wr x y →
    post x y ch (new.pixByte (src.offsetOf x y ch))
  kept : ∀ x y ch, x < src.width → y < src.height → ch < src.lanes → ¬ wr x y →
    new.pixByte (src.offsetOf x y ch) = src.pixByte (src.offsetOf x y ch)
  beyond : ∀ o, src.extent ≤ o → new.pixByte o = old.pixByte o
  alphaPlane : ∀ o, new.alpByte o =
    if src.alpha = true ∧ src.depth = 3#2 ∧ o < src.area then src.alpByte o else old.alpByte o
  selPlane : ∀ o, new.selByte o = if src.selv = true ∧ o < src.area then src.selByte o else old.selByte o

/-- A same-format command with source slot `a` and destination slot `d` succeeded. -/
structure SameFormatDone (s t : State) (a d : SlotNo) (wr : Nat → Nat → Prop)
    (post : Nat → Nat → Nat → Byte → Prop) : Prop where
  outcome : Succeeded s t
  result : t.result = s.result
  others : OthersKept s t [d]
  image : ResultImage (s.slot a) (s.slot d) (t.slot d) wr post

/-! ### Windows (41_convolution.md R150) -/

/-- Pixel `p` is in the window of side `k` about pixel (x, y): inside the image, at an offset from `−(k div 2)` on, `k`
of them in each direction. -/
def inWindow (k : Nat) (t : Slot) (x y : Nat) (p : Nat × Nat) : Bool :=
  decide (p.1 < t.width) && decide (p.2 < t.height) &&
    decide (x ≤ p.1 + k / 2) && decide (p.1 + k / 2 < x + k) &&
    decide (y ≤ p.2 + k / 2) && decide (p.2 + k / 2 < y + k)

/-- `m` is the least value of lane `ch` over the window (R155). -/
def IsWindowMin (k : Nat) (t : Slot) (x y ch m : Nat) : Prop :=
  (∃ p, inWindow k t x y p = true ∧ t.lane p.1 p.2 ch = m) ∧
    ∀ p, inWindow k t x y p = true → m ≤ t.lane p.1 p.2 ch

/-- `m` is the largest value of lane `ch` over the window (R156). -/
def IsWindowMax (k : Nat) (t : Slot) (x y ch m : Nat) : Prop :=
  (∃ p, inWindow k t x y p = true ∧ t.lane p.1 p.2 ch = m) ∧
    ∀ p, inWindow k t x y p = true → t.lane p.1 p.2 ch ≤ m

/-! ### The Gaussian blur (41_convolution.md R158-R161) -/

/-- `σ` of the radius `r` (R158). -/
def sigmaOf (r : F64) : F64 := F64.add (F64.div r.abs (F64.ofNat 2)) (F64.ofFrac 1 4)

/-- `ceil(Rr − 0.5)` with `Rr = σ · 2.0`, the `mid` of R158. -/
def midOf (r : F64) : Nat := (F64.ceil (F64.sub (F64.mul (sigmaOf r) (F64.ofNat 2)) (F64.ofFrac 1 2))).toNat

/-- Weight `i` of the radius `r` before the normalization (R159): the mean of 51 samples of the Gaussian in the centre
cell, and a fiftieth of its samples within `Rr` in a cell `d` cells to either side. -/
def rawWeight (r : F64) (i : Nat) : F64 :=
  let g := fun t => F64.exp (F64.div (F64.neg (F64.mul t t)) (F64.mul (F64.mul (F64.ofNat 2) (sigmaOf r)) (sigmaOf r)))
  let step := fun j => F64.mul (F64.ofFrac 2 100) (F64.ofNat j)
  let d := max i (midOf r) - min i (midOf r)
  if d = 0 then
    F64.div ((List.range 51).foldl (fun acc j => F64.add acc (g (F64.add (F64.neg (F64.ofFrac 1 2)) (step j)))) F64.zero)
      (F64.ofNat 51)
  else
    F64.div ((List.range' 1 50).foldl (fun acc j =>
      let t := F64.add (F64.sub (F64.ofNat d) (F64.ofFrac 1 2)) (step j)
      if F64.le t (F64.mul (sigmaOf r) (F64.ofNat 2)) then F64.add acc (g t) else acc) F64.zero) (F64.ofNat 50)

/-- `w` holds the weights of the radius `r`: `L = 2·mid + 1` of them (R158), each the raw weight divided by the sum of
the raw weights from left to right (R159). -/
structure IsGaussKernel (r : F64) (w : List F64) : Prop where
  length : w.length = 2 * midOf r + 1
  weight : ∀ i, i < w.length → w[i]? = some (F64.div (rawWeight r i)
    ((List.range' 1 (2 * midOf r)).foldl (fun acc j => F64.add acc (rawWeight r j)) (rawWeight r 0)))

/-- `linblur(a)[r]` of a line of `n` lane values with the weights `w` (R160): over the weights whose sample lies in the
line, the rounded sum of weight times sample where these are all the weights, and otherwise that sum divided by the sum
of the weights used. -/
def blurredLine (w : List F64) (n : Nat) (a : Nat → Nat) (r : Nat) : Nat :=
  let mid := w.length / 2
  let taps := (List.range w.length).filter fun j => decide (mid ≤ r + j) && decide (r + j < n + mid)
  let weight := fun j => w.getD j F64.zero
  let acc := taps.foldl (fun acc j => F64.add acc (F64.mul (weight j) (F64.ofNat (a (r + j - mid))))) F64.zero
  let scale := taps.foldl (fun acc j => F64.add acc (weight j)) F64.zero
  if taps.length = w.length then roundByte acc else roundByte (F64.div acc scale)

/-- `blur2(S)` at pixel (x, y), lane `ch` (R161): every row first, then the column of the rounded row results. -/
def twoPassBlur (w : List F64) (t : Slot) (x y ch : Nat) : Nat :=
  blurredLine w t.height (fun v => blurredLine w t.width (fun u => t.lane u v ch) x) y

/-! ### The radix-2 transform (43_frequency.md R204) -/

/-- `(c1, c2)`, with which stage `l` steps its twiddle factor: `(−1.0, 0.0)` in stage 0, and from each stage to the next
`c2 = SQRT((1.0 − c1) / 2.0)`, negated forward, and `c1 = SQRT((1.0 + c1) / 2.0)`. -/
def stageStep (inv : Bool) : Nat → Cx
  | 0 => ⟨F64.ofInt (-1), F64.zero⟩
  | l + 1 =>
    let c1 := (stageStep inv l).re
    let c2 := F64.sqrt (F64.div (F64.sub (F64.ofNat 1) c1) (F64.ofNat 2))
    ⟨F64.sqrt (F64.div (F64.add (F64.ofNat 1) c1) (F64.ofNat 2)), if inv then c2 else F64.neg c2⟩

/-- `(u1, u2)`, the twiddle factor of stage `l` at `j`: `(1.0, 0.0)` at 0, and from each `j` to the next
`z = u1·c1 − u2·c2`, `u2 = u1·c2 + u2·c1`, `u1 = z`. -/
def twiddleAt (inv : Bool) (l : Nat) : Nat → Cx
  | 0 => ⟨F64.ofNat 1, F64.zero⟩
  | j + 1 =>
    let u := twiddleAt inv l j
    let c := stageStep inv l
    ⟨F64.sub (F64.mul u.re c.re) (F64.mul u.im c.im), F64.add (F64.mul u.re c.im) (F64.mul u.im c.re)⟩

/-- Element `i` of the transform, not yet normalized, of the `2^m` samples `v 0, v 1, …`: those of even and those of odd
index are transformed apart, and elements `j` and `j + 2^(m−1)` are the sum and the difference of their elements `j`, the
odd one through the twiddle factor of the last stage. -/
def radix2 (inv : Bool) : Nat → (Nat → Cx) → Nat → Cx
  | 0, v, _ => v 0
  | m + 1, v, i =>
    let j := i % 2 ^ m
    let u := twiddleAt inv m j
    let p := radix2 inv m (fun k => v (2 * k)) j
    let q := radix2 inv m (fun k => v (2 * k + 1)) j
    let t1 := F64.sub (F64.mul u.re q.re) (F64.mul u.im q.im)
    let t2 := F64.add (F64.mul u.re q.im) (F64.mul u.im q.re)
    if i < 2 ^ m then ⟨F64.add p.re t1, F64.add p.im t2⟩ else ⟨F64.sub p.re t1, F64.sub p.im t2⟩

/-! ### Gray values -/

/-- `GRAYRGB` of a colour (40_common.md R128). -/
def weighted (c : Color) : Nat := (306 * c.r.toNat + 601 * c.g.toNat + 117 * c.b.toNat) / 1024

/-- The gray value of pixel (x, y) out of the stored bytes (R128): of an RGB24 image its weighted colour; of an image of
DEPTH 2 whose 256 palette entries are the identity ramp (10_state.md R44) the stored index; of any other the weighted
palette entry of the index, bit 0 of the byte for DEPTH 1 (R49), and black's 0 where the index is not below PALN
(R43). -/
def grayOf (t : Slot) (x y : Nat) : Nat :=
  let p := y * t.width + x
  let stored := (t.pixByte p).toNat
  let index := if t.depth = 1#2 then stored % 2 else stored
  if t.depth = 3#2 then weighted ⟨t.pixByte (3 * p), t.pixByte (3 * p + 1), t.pixByte (3 * p + 2)⟩
  else if t.depth = 2#2 ∧ t.paln = 256#9 ∧
      ∀ i : Nat, i < 256 → t.palEntry i = ⟨BitVec.ofNat 8 i, BitVec.ofNat 8 i, BitVec.ofNat 8 i⟩ then index
  else if index < t.paln.toNat then weighted (t.palEntry index)
  else 0

/-! ### Fresh images (40_common.md R130) -/

/-- `new`, earlier `old`, has the descriptor of a fresh image, and the alpha and selection planes it had. -/
structure FreshDescriptor (old new : Slot) (w h : Nat) (depth : BitVec 2) (paln : BitVec 9) : Prop where
  width : new.width = w
  height : new.height = h
  depth : new.depth = depth
  paln : new.paln = paln
  alpha : new.alpha = false
  selv : new.selv = false
  sbox0 : new.sbox0 = 0#32
  sbox1 : new.sbox1 = 0#32
  alphaPlane : ∀ o, new.alpByte o = old.alpByte o
  selPlane : ∀ o, new.selByte o = old.selByte o

/-- `new` is the FRESH_GRAY8(w, h) image with index `f x y` at pixel (x, y). -/
structure IsFreshGray8 (old new : Slot) (w h : Nat) (f : Nat → Nat → Nat) : Prop where
  descriptor : FreshDescriptor old new w h 2#2 256#9
  palette : ∀ i, i < 256 → new.palEntry i = grayColor i
  pixels : ∀ x y, x < w → y < h → (new.pixByte (y * w + x)).toNat = f x y
  beyond : ∀ o, w * h ≤ o → new.pixByte o = old.pixByte o

/-- `new` is the FRESH_BW(w, h) image with index 1 exactly where `f x y`. -/
structure IsFreshBw (old new : Slot) (w h : Nat) (f : Nat → Nat → Prop) : Prop where
  descriptor : FreshDescriptor old new w h 1#2 2#9
  black : new.palEntry 0 = ⟨0, 0, 0⟩
  white : new.palEntry 1 = ⟨255, 255, 255⟩
  palette : ∀ i, 2 ≤ i → new.palEntry i = old.palEntry i
  ones : ∀ x y, x < w → y < h → f x y → new.pixByte (y * w + x) = 1#8
  zeros : ∀ x y, x < w → y < h → ¬ f x y → new.pixByte (y * w + x) = 0#8
  beyond : ∀ o, w * h ≤ o → new.pixByte o = old.pixByte o

/-- `new` is the FRESH_RGB24(w, h) image with colour `f x y` at pixel (x, y), as far as the plane reaches. -/
structure IsFreshRgb24 (old new : Slot) (w h : Nat) (f : Nat → Nat → Color) : Prop where
  descriptor : FreshDescriptor old new w h 3#2 0#9
  palette : ∀ i, new.palEntry i = old.palEntry i
  red : ∀ x y, x < w → y < h → (y * w + x) * 3 < Config.default.planeBytes →
    new.pixByte ((y * w + x) * 3) = (f x y).r
  green : ∀ x y, x < w → y < h → (y * w + x) * 3 + 1 < Config.default.planeBytes →
    new.pixByte ((y * w + x) * 3 + 1) = (f x y).g
  blue : ∀ x y, x < w → y < h → (y * w + x) * 3 + 2 < Config.default.planeBytes →
    new.pixByte ((y * w + x) * 3 + 2) = (f x y).b
  beyond : ∀ o, w * h * 3 ≤ o → new.pixByte o = old.pixByte o

/-! ### Regions -/

/-- Pixels `p` and `q` are neighbours in one of the four directions of 45_region.md R262. -/
def Adjacent (p q : Pt) : Prop :=
  (p.2 = q.2 ∧ (p.1 + 1 = q.1 ∨ q.1 + 1 = p.1)) ∨ (p.1 = q.1 ∧ (p.2 + 1 = q.2 ∨ q.2 + 1 = p.2))

/-- Pixel `q` may be visited by a fill from `seed` (R260, R262): inside, in scope, and every lane within the
tolerance of the seed's. -/
def Fillable (t : Slot) (seed : Pt) (tol : Nat) (q : Pt) : Prop :=
  q.1 < t.width ∧ q.2 < t.height ∧ t.inscope q.1 q.2 = true ∧
    ∀ ch, ch < t.lanes →
      t.lane seed.1 seed.2 ch ≤ t.lane q.1 q.2 ch + tol ∧ t.lane q.1 q.2 ch ≤ t.lane seed.1 seed.2 ch + tol

/-- The region of a fill: what a chain of neighbouring fillable pixels joins to the seed (R262). -/
inductive FillReach (t : Slot) (seed : Pt) (tol : Nat) : Pt → Prop where
  | seed : FillReach t seed tol seed
  | next (p q : Pt) : FillReach t seed tol p → Adjacent p q → Fillable t seed tol q → FillReach t seed tol q

/-- What FLOODFILL leaves in lane `ch` of a visited pixel whose byte was `old` (45_region.md R261). -/
def IsPainted (cls : ImgClass) (color : Color) (index opacity : Byte) (ch : Nat) (old new : Byte) : Prop :=
  let blended (fill : Byte) : Nat :=
    if opacity = 255#8 then fill.toNat else (fill.toNat * opacity.toNat + old.toNat * (255 - opacity.toNat)) / 256
  if opacity = 0#8 then new = old
  else
    match cls with
    | .rgb24 => new.toNat = blended (if ch = 0 then color.r else if ch = 1 then color.g else color.b)
    | .gray8 => new.toNat = blended index
    | _ => new = index

/-- Pixel `q` is the one next to `p` in direction `dir` of the table of 45_region.md R264, is inside and has the target
colour. -/
def IsHit (t : Slot) (target : Color) (p : Pt) (dir : Nat) (q : Pt) : Prop :=
  let table : List (Int × Int) := [(1, 0), (1, 1), (0, 1), (-1, 1), (-1, 0), (-1, -1), (0, -1), (1, -1)]
  table[dir]? = some ((q.1 : Int) - p.1, (q.2 : Int) - p.2) ∧ q.1 < t.width ∧ q.2 < t.height ∧
    t.color q.1 q.2 = target

/-- `Walk t target start cur dir miss moves ps`: the loop of `walk(start)` (R266), entered with these values of its
variables, draws the points `ps`, in this order, and stops. -/
inductive Walk (t : Slot) (target : Color) (start : Pt) : Pt → Nat → Nat → Nat → List Pt → Prop where
  /-- an accepted move, after which the walk goes on with the direction re-biased by −2 -/
  | move {cur dir miss moves q ps} (hit : IsHit t target cur dir q)
      (on : q ≠ start ∧ moves + 1 < 8 * (t.width * t.height))
      (rest : Walk t target start q ((dir + 6) % 8) 0 (moves + 1) ps) :
      Walk t target start cur dir miss moves (q :: ps)
  /-- an accepted move that returns to the start, or uses up the moves -/
  | last {cur dir miss moves q} (hit : IsHit t target cur dir q)
      (stop : q = start ∨ 8 * (t.width * t.height) ≤ moves + 1) :
      Walk t target start cur dir miss moves [q]
  /-- a failed probe, after which the next direction is tried -/
  | miss {cur dir miss moves ps} (none : ∀ q, ¬ IsHit t target cur dir q) (on : miss + 1 ≠ 9)
      (rest : Walk t target start cur ((dir + 1) % 8) (miss + 1) moves ps) :
      Walk t target start cur dir miss moves ps
  /-- the ninth failed probe in a row -/
  | exhausted {cur dir miss moves} (none : ∀ q, ¬ IsHit t target cur dir q) (stop : miss + 1 = 9) :
      Walk t target start cur dir miss moves []

/-! ### Threshold inputs -/

/-- Some pixel of the box is present in the mask (44_threshold.md R231, R232). -/
def HasPixel (m : Nat → Nat → Bool) (b : PixBox) : Prop :=
  ∃ x y, b.x0 ≤ x ∧ x < b.x1 ∧ b.y0 ≤ y ∧ y < b.y1 ∧ m x y = true

/-- Gray level `v` occurs in the box at a pixel present in the mask. -/
def Occurs (g : Nat → Nat → Nat) (m : Nat → Nat → Bool) (b : PixBox) (v : Nat) : Prop :=
  ∃ x y, b.x0 ≤ x ∧ x < b.x1 ∧ b.y0 ≤ y ∧ y < b.y1 ∧ m x y = true ∧ g x y = v

/-- The number of pixels of the box that are present in the mask and have gray level `v`: `p[v]` of R232. -/
def levelCount (g : Nat → Nat → Nat) (m : Nat → Nat → Bool) (b : PixBox) (v : Nat) : Nat :=
  ((Finset.Ico b.x0 b.x1 ×ˢ Finset.Ico b.y0 b.y1).filter fun q => m q.1 q.2 = true ∧ g q.1 q.2 = v).card

/-! ### The four estimators (44_threshold.md R234), over counts `p` of the levels `lo .. hi` -/

/-- The sum of `term k` over the levels `k = lo .. hi`, in order. -/
def levelSum (term : Nat → F64) (lo hi : Nat) : F64 :=
  (List.range' lo (hi + 1 - lo)).foldl (fun acc k => F64.add acc (term k)) F64.zero

/-- `f64(k)·p[k]` (R234). -/
def firstMoment (p : Nat → Nat) (k : Nat) : F64 := F64.mul (F64.ofNat k) (F64.ofNat (p k))

/-- `f64(k·k)·p[k]` (R234). -/
def secondMoment (p : Nat → Nat) (k : Nat) : F64 := F64.mul (F64.ofNat (k * k)) (F64.ofNat (p k))

/-- What R234 computes at a split level `i`: the weights and variances of the two classes. -/
structure Split where
  w1 : F64
  w2 : F64
  s1 : F64
  s2 : F64
  deriving DecidableEq, Repr

/-- The classes of split level `i`: levels ≤ `i`, and levels above it. -/
def classesAt (p : Nat → Nat) (lo hi i : Nat) : Split :=
  let variance := fun w m q => F64.sub (F64.div q w) (F64.div (F64.div (F64.mul m m) w) w)
  let w1 := levelSum (fun k => F64.ofNat (p k)) lo i
  let m1 := levelSum (firstMoment p) lo i
  let q1 := levelSum (secondMoment p) lo i
  let w2 := F64.sub (levelSum (fun k => F64.ofNat (p k)) lo hi) w1
  let m2 := F64.sub (levelSum (firstMoment p) lo hi) m1
  let q2 := F64.sub (levelSum (secondMoment p) lo hi) q1
  ⟨w1, w2, variance w1 m1 q1, variance w2 m2 q2⟩

/-- Otsu: the weighted within-class variance, negated. -/
def otsuObjective (c : Split) : F64 := F64.neg (F64.add (F64.mul c.s1 c.w1) (F64.mul c.s2 c.w2))

/-- Kittler–Illingworth. -/
def kittlerObjective (c : Split) : F64 :=
  F64.add (F64.mul c.w1 (F64.log (F64.div c.w1 (F64.sqrt c.s1))))
    (F64.mul c.w2 (F64.log (F64.div c.w2 (F64.sqrt c.s2))))

/-- The levels `lo .. hi` that occur; an empty level contributes 0.0 to a sum of multiples of its count. -/
def occurring (p : Nat → Nat) (lo hi : Nat) : List Nat :=
  (List.range' lo (hi + 1 - lo)).filter fun k => decide (0 < p k)

/-- Maximum entropy: the summed partition entropies. -/
def entropyObjective (p : Nat → Nat) (lo hi i : Nat) (c : Split) : F64 :=
  let term := fun w k => F64.div (F64.mul (F64.ofNat (p k)) (F64.log (F64.div (F64.ofNat (p k)) w))) w
  (occurring p (i + 1) hi).foldl (fun l k => F64.sub l (term c.w2 k))
    ((occurring p lo i).foldl (fun l k => F64.sub l (term c.w1 k)) F64.zero)

/-- Potential difference. -/
def potentialValue (p : Nat → Nat) (lo hi i : Nat) : F64 :=
  let term := fun d k => F64.mul (F64.mul (F64.ofNat (p k)) (F64.ofNat d)) (F64.ofNat d)
  let below := (occurring p lo i).foldl (fun v k => F64.add v (term (i - k) k)) F64.zero
  let diff := (occurring p (i + 1) hi).foldl (fun v k => F64.sub v (term (k - i) k)) below
  let sum := (occurring p (i + 1) hi).foldl (fun v k => F64.add v (term (k - i) k)) below
  if F64.lt F64.zero sum then F64.neg (F64.abs (F64.div diff sum)) else F64.zero

/-- The split level of `[lo, hi)` with the largest objective among those that are evaluated, the earliest of equal ones:
each replaces the best so far where that is less, or where there is none yet. -/
def bestSplit (l : Nat → F64) (evaluated : Nat → Bool) (lo hi : Nat) : Option Nat :=
  ((List.range' lo (hi - lo)).foldl (fun (b : F64 × Option Nat) i =>
    if evaluated i && (F64.lt b.1 (l i) || b.2.isNone) then (l i, some i) else b) (F64.zero, none)).2

/-- `th1 .. th4` (R230, R234): the threshold of estimator 1 (Otsu), 2 (Kittler–Illingworth, only where both variances
are positive), 3 (maximum entropy) or 4 (potential difference); none for −1. -/
def estimate (p : Nat → Nat) (lo hi method : Nat) : Option Nat :=
  let c := classesAt p lo hi
  match method with
  | 1 => bestSplit (fun i => otsuObjective (c i)) (fun _ => true) lo hi
  | 2 => bestSplit (fun i => kittlerObjective (c i))
      (fun i => F64.lt F64.zero (c i).s1 && F64.lt F64.zero (c i).s2) lo hi
  | 3 => bestSplit (fun i => entropyObjective p lo hi i (c i)) (fun _ => true) lo hi
  | _ => bestSplit (potentialValue p lo hi) (fun _ => true) lo hi

/-- The candidate of a method (R235): an estimator's own, or for method 0 the integer average of the valid ones. -/
def candidate (p : Nat → Nat) (lo hi method : Nat) : Option Nat :=
  let valid := [1, 2, 3, 4].filterMap (estimate p lo hi)
  if method = 0 then (if valid.length = 0 then none else some (valid.sum / valid.length)) else estimate p lo hi method

/-! ### Naming -/

/-- BADSLOT (30_encoding.md R87): a slot field that is neither NULL nor the number of a slot. -/
def IsBadSlot (f : SlotArg) : Prop := ∃ n, f = .slot n ∧ 8 ≤ n

/-- A destination field `dst` of a command with source field `src` stands for slot `d`: it names it, or it is NULL and
the source names it (40_common.md R116). -/
def Target (dst src : SlotArg) (d : SlotNo) : Prop := dst = .slot d ∨ (dst = .null ∧ src = .slot d)

/-- The slots a command may write, command by command (40_common.md R116, 43_frequency.md R203,
70_reset_and_hazards.md R314): the destination D of a same-format command, of TRACE (SB, else SA), of ADAPTHRESH and
of THRESHMASK (SC, else SA); FFT2's two targets; FLOODFILL's SA slot; none for OPTTHRESH. -/
inductive MayWrite : Instr → SlotNo → Prop where
  | filter {sa sb k factor bias d} (h : Target sb sa d) : MayWrite (.filter sa sb k factor bias) d
  | erode {sa sb k d} (h : Target sb sa d) : MayWrite (.erode sa sb k) d
  | dilate {sa sb k d} (h : Target sb sa d) : MayWrite (.dilate sa sb k) d
  | edge {sa sb k d} (h : Target sb sa d) : MayWrite (.edge sa sb k) d
  | contour {sa sb d} (h : Target sb sa d) : MayWrite (.contour sa sb) d
  | gaussblur {sa sb radius d} (h : Target sb sa d) : MayWrite (.gaussblur sa sb radius) d
  | unsharp {sa sb radius amount threshold d} (h : Target sb sa d) :
      MayWrite (.unsharp sa sb radius amount threshold) d
  | selblur {sa sb radius threshold d} (h : Target sb sa d) : MayWrite (.selblur sa sb radius threshold) d
  | median {sa sb k d} (h : Target sb sa d) : MayWrite (.median sa sb k) d
  | fft2Real {sa sb sc sd inv pow2 mag d} (h : Target sc sa d) : MayWrite (.fft2 sa sb sc sd inv pow2 mag) d
  | fft2Imag {sa sb sc sd inv pow2 mag d} (h : Target sd sb d) : MayWrite (.fft2 sa sb sc sd inv pow2 mag) d
  | adaptthresh {sa sb sc method boxSize bias balance d} (h : Target sc sa d) :
      MayWrite (.adaptthresh sa sb sc method boxSize bias balance) d
  | threshmask {sa sb sc d} (h : Target sc sa d) : MayWrite (.threshmask sa sb sc) d
  | floodfill {track x0 y0 color index tolerance opacity level} {d : SlotNo} :
      MayWrite (.floodfill (.slot d) track x0 y0 color index tolerance opacity level) d
  | trace {sa sb target traceColor d} (h : Target sb sa d) : MayWrite (.trace sa sb target traceColor) d

/-- The slot fields of a command (R90-R100, R102). -/
def slotFields : Instr → List SlotArg
  | .filter sa sb _ _ _ => [sa, sb]
  | .erode sa sb _ => [sa, sb]
  | .dilate sa sb _ => [sa, sb]
  | .edge sa sb _ => [sa, sb]
  | .contour sa sb => [sa, sb]
  | .gaussblur sa sb _ => [sa, sb]
  | .unsharp sa sb _ _ _ => [sa, sb]
  | .selblur sa sb _ _ => [sa, sb]
  | .median sa sb _ => [sa, sb]
  | .fft2 sa sb sc sd _ _ _ => [sa, sb, sc, sd]
  | .optthresh sa sb _ _ => [sa, sb]
  | .adaptthresh sa sb sc _ _ _ _ => [sa, sb, sc]
  | .threshmask sa sb sc => [sa, sb, sc]
  | .floodfill sa _ _ _ _ _ _ _ _ => [sa]
  | .trace sa sb _ _ => [sa, sb]

/-- The bits of CMD1..CMD4 that the format of an opcode uses (30_encoding.md R90..R100); OPTTHRESH uses CMD2 and CMD3
when its flag BOX is set. -/
def operandMask (opc : Nat) (flag0 : Bool) : CmdBlock :=
  let all := 0xFFFFFFFF#32
  match opc with
  | 0x01 => block 0 0xFF#32 all all
  | 0x02 => block 0 0xFF#32
  | 0x03 => block 0 0xFF#32
  | 0x04 => block 0 0xFF#32
  | 0x06 => block 0 all
  | 0x07 => block 0 all all all
  | 0x08 => block 0 all 0xFF#32
  | 0x09 => block 0 0xFF#32
  | 0x18 => if flag0 then block 0 7#32 all all else block 0 7#32
  | 0x19 => block 0 7#32 all all all
  | 0x20 => block 0 all all 0x00FFFFFF#32
  | 0x21 => block 0 0x00FFFFFF#32 0x00FFFFFF#32
  | _ => block 0

/-- Whether a command is OPTTHRESH or ADAPTHRESH, the two that write RESULT (10_state.md R30). -/
def isThreshold : Instr → Bool
  | .optthresh _ _ _ _ => true
  | .adaptthresh _ _ _ _ _ _ _ => true
  | .filter _ _ _ _ _ => false
  | .erode _ _ _ => false
  | .dilate _ _ _ => false
  | .edge _ _ _ => false
  | .contour _ _ => false
  | .gaussblur _ _ _ => false
  | .unsharp _ _ _ _ _ => false
  | .selblur _ _ _ _ => false
  | .median _ _ _ => false
  | .fft2 _ _ _ _ _ _ _ => false
  | .threshmask _ _ _ => false
  | .floodfill _ _ _ _ _ _ _ _ _ => false
  | .trace _ _ _ _ => false

/-- The nine same-format commands with slot fields `sa`, `sb` (40_common.md R117), each with whether its parameter
checks of 60_exceptions.md R283 pass, a radius being finite and of magnitude at most 255.0 (41_convolution.md R162). -/
inductive SameFormat (sa sb : SlotArg) : Instr → Bool → Prop where
  | filter (k : Byte) (factor bias : Word) :
      SameFormat sa sb (.filter sa sb k factor bias) (decide (k.toNat % 2 = 1 ∧ k.toNat ≤ 15))
  | erode (k : Byte) : SameFormat sa sb (.erode sa sb k) (decide (1 ≤ k.toNat ∧ k.toNat ≤ 255))
  | dilate (k : Byte) : SameFormat sa sb (.dilate sa sb k) (decide (1 ≤ k.toNat ∧ k.toNat ≤ 255))
  | edge (k : Byte) : SameFormat sa sb (.edge sa sb k) (decide (1 ≤ k.toNat ∧ k.toNat ≤ 255))
  | contour : SameFormat sa sb (.contour sa sb) true
  | gaussblur (radius : Word) :
      SameFormat sa sb (.gaussblur sa sb radius)
        ((F64.ofF32 radius).isFinite && F64.le (F64.ofF32 radius).abs (F64.ofNat 255))
  | unsharp (radius amount threshold : Word) :
      SameFormat sa sb (.unsharp sa sb radius amount threshold)
        ((F64.ofF32 radius).isFinite && F64.le (F64.ofF32 radius).abs (F64.ofNat 255) && (F64.ofF32 amount).isFinite)
  | selblur (radius : Word) (threshold : Byte) :
      SameFormat sa sb (.selblur sa sb radius threshold)
        ((F64.ofF32 radius).isFinite && F64.le (F64.ofF32 radius).abs (F64.ofNat 255))
  | median (k : Byte) : SameFormat sa sb (.median sa sb k) (decide (1 ≤ k.toNat ∧ k.toNat ≤ 255))

/-- The seven same-format commands that poll once a row of the scan box (40_common.md R135). -/
inductive RowPolled (sa sb : SlotArg) : Instr → Prop where
  | filter (k : Byte) (factor bias : Word) : RowPolled sa sb (.filter sa sb k factor bias)
  | erode (k : Byte) : RowPolled sa sb (.erode sa sb k)
  | dilate (k : Byte) : RowPolled sa sb (.dilate sa sb k)
  | edge (k : Byte) : RowPolled sa sb (.edge sa sb k)
  | contour : RowPolled sa sb (.contour sa sb)
  | unsharp (radius amount threshold : Word) : RowPolled sa sb (.unsharp sa sb radius amount threshold)
  | median (k : Byte) : RowPolled sa sb (.median sa sb k)

/-- The two commands that poll once a column (R135). -/
inductive ColumnPolled (sa sb : SlotArg) : Instr → Prop where
  | gaussblur (radius : Word) : ColumnPolled sa sb (.gaussblur sa sb radius)
  | selblur (radius : Word) (threshold : Byte) : ColumnPolled sa sb (.selblur sa sb radius threshold)

/-- The number `n` of units of a validated command that polls (R135): the rows of the scan box, the columns of the
image, or the cells of ADAPTHRESH's tiling with its side `max(boxSize, 8)` (44_threshold.md R238, R239). A command
that never polls has none. -/
inductive PollUnits (s : State) : Instr → Nat → Prop where
  | rows {i sb} {a : SlotNo} (h : RowPolled (.slot a) sb i) : PollUnits s i (s.slot a).scanBox.rows
  | columns {i sb} {a : SlotNo} (h : ColumnPolled (.slot a) sb i) : PollUnits s i (s.slot a).width
  | cells {sb sc method boxSize bias balance} {a : SlotNo} :
      PollUnits s (.adaptthresh (.slot a) sb sc method boxSize bias balance)
        (((s.slot a).width + max boxSize.toNat 8 - 1) / max boxSize.toNat 8 *
          (((s.slot a).height + max boxSize.toNat 8 - 1) / max boxSize.toNat 8))

/-- A slot of which nothing is known: no descriptor field is stated and no cell of its memories is listed, so every
one of them reads as the free value that its generation names (93_implementation_defined.md I3). -/
def Slot.unknown (t : Slot) : Prop :=
  t.pal = [] ∧ t.pix = [] ∧ t.alp = [] ∧ t.sel = [] ∧ ∃ draw, t = unspecSlot draw

end Sys2Proof.Machine
end

