-- ==== Sys2Proof/Certificates/Slice0/Obligations.lean ====
section
/-! DEFINITION. The statements for the provers. -/

open Sys2Proof Sys2Proof.Machine

/-! ### Reset and the registers -/

/-- 10_state.md R59: every register, descriptor and output after power-on reset, and no memory cell has a known
value. -/
def Obligations.PowerOnResetValues : Prop :=
  ∀ s : State, ∀ r ∈ [State.reset, s.powerOn],
    readLoc r .four .id = 0x49504531#32 ∧ readLoc r .four .caps = 0x00180F08#32 ∧ readLoc r .four .ctrl = 0#32 ∧
    readLoc r .four .status = 0#32 ∧ readLoc r .four .progress = 0#32 ∧ readLoc r .four .result = 0#32 ∧
    (∀ i, readLoc r .four (.cmd i) = 0#32) ∧
    (∀ i, readLoc r .four (.sdim i) = 0#32 ∧ readLoc r .four (.sfmt i) = 0#32 ∧ readLoc r .four (.sbox0 i) = 0#32 ∧
      readLoc r .four (.sbox1 i) = 0#32 ∧ (r.slot i).valid .default = false) ∧
    (∀ n, memGet n r.kram = none) ∧
    (∀ i n, memGet n (r.slot i).pal = none ∧ memGet n (r.slot i).pix = none ∧ memGet n (r.slot i).alp = none ∧
      memGet n (r.slot i).sel = none) ∧
    r.irq = false ∧ r.job = none

/-- The invariant holds after reset. -/
def Obligations.ResetMeetsInvariant : Prop := State.reset.Inv

/-- Every step keeps the invariant: each memory in canonical form, PROGRESS a percentage, no outcome recorded while a
command is in progress. -/
def Obligations.StepKeepsInvariant : Prop :=
  ∀ s t : State, s.Inv → step s = .next t → t.Inv

/-- 60_exceptions.md R288, R289: no step stops the machine. -/
def Obligations.EveryStepHasANextState : Prop :=
  ∀ s : State, ∃ t, step s = .next t

/-- 60_exceptions.md R295: irq is DONE and IE, and does not depend on HAZ. -/
def Obligations.IrqIsDoneGatedByEnable : Prop :=
  ∀ (s : State) (v : Word), s.irq = ((statusWord s).getLsbD 1 && (ctrlWord s).getLsbD 2) ∧
    (v.getLsbD 1 = true → (writeStatus s v).irq = false) ∧ s.accept.irq = false ∧ s.softReset.irq = false ∧
    s.powerOn.irq = false ∧ (∀ code c, (s.complete code c).irq = s.ie) ∧ { s with haz := true }.irq = s.irq

/-! ### Encoding -/

/-- Decoding an encoded command gives it back, with every operand at every value its field admits. -/
def Obligations.DecodeOfEncode : Prop :=
  ∀ i : Instr, i.wf = true → decode (encode i) = .ok i

/-- 30_encoding.md R85, R87, R90..R105: a block decodes exactly when its opcode is in the table, every unused slot
field is 0xF and every undefined flag 0; the words and bits that its format does not use are ignored; and what it
decodes to is a well-formed command. -/
def Obligations.DecodeChecksReservedFields : Prop :=
  ∀ c : CmdBlock,
    let f := cmdFields c.w0
    let two := f.sc = 0xF#4 ∧ f.sd = 0xF#4
    let m := operandMask f.opc.toNat (f.flg.getLsbD 0)
    ((∃ i, decode c = .ok i) ↔
      ((f.opc.toNat ∈ [1, 2, 3, 4, 5, 6, 7, 8, 9, 0x21] ∧ two ∧ f.flg = 0#8) ∨
        (f.opc = 0x10#8 ∧ f.flg.toNat < 8) ∨
        (f.opc = 0x18#8 ∧ two ∧ f.flg.toNat < 2) ∨
        ((f.opc = 0x19#8 ∨ f.opc = 0x1A#8) ∧ f.sd = 0xF#4 ∧ f.flg = 0#8) ∨
        (f.opc = 0x20#8 ∧ f.sb = 0xF#4 ∧ two ∧ f.flg.toNat < 2))) ∧
    decode ⟨c.w0, c.w1 &&& m.w1, c.w2 &&& m.w2, c.w3 &&& m.w3, c.w4 &&& m.w4, 0#32, 0#32, 0#32⟩ = decode c ∧
    ∀ i, decode c = .ok i → i.wf = true

/-- Words written out from the encoding tables decode to the commands they stand for. -/
def Obligations.WrittenWordsDecode : Prop :=
  decode ⟨0x00FFF001#32, 3#32, 9#32, 0#32, 0#32, 0#32, 0#32, 0#32⟩ = .ok (.filter (.slot 0) .null 3#8 9#32 0#32) ∧
  decode ⟨0x0532F110#32, 0#32, 0#32, 0#32, 0#32, 0#32, 0#32, 0#32⟩ =
    .ok (.fft2 (.slot 1) .null (.slot 2) (.slot 3) true false true) ∧
  decode ⟨0x01FFF018#32, 1#32, 0x00000002#32, 0x00010002#32, 0#32, 0#32, 0#32, 0#32⟩ =
    .ok (.optthresh (.slot 0) .null 1#3 (some ⟨2#16, 0#16, 2#16, 1#16⟩)) ∧
  decode ⟨0x00FFF020#32, 0x00020001#32, 0x00FF0000#32, 0x00004003#32, 0#32, 0#32, 0#32, 0#32⟩ =
    .ok (.floodfill (.slot 0) false 1#16 2#16 ⟨0#8, 0#8, 255#8⟩ 0#8 3#8 64#8 0#8)

/-! ### The command procedure -/

/-- What one step is. With a command in progress, its turn, and a latched block that decodes to a command, it is that
command's meaning, with nothing added around it. Where the host's next event is due, because its wait is over or no
command is in progress, the step takes it off the list and is its access (the interleaving is the model's, assumption 4).
With neither it leaves the state as it is (20_memory.md R77; assumption 19). -/
def Obligations.StepRunsTheLatchedCommand : Prop :=
  ∀ s : State,
    (∀ j i, s.job = some j → (∀ e ∈ s.host.head?, 0 < e.wait) → decode j.cmd = .ok i → step s = exec i s) ∧
    (∀ e rest, s.host = e :: rest → s.job = none ∨ e.wait = 0 →
      let s' := { s with host := rest }
      step s = .next (match e.act with
        | .read a n => hostRead s' a n
        | .write a n v => hostWrite s' a n v
        | .powerOn => s'.powerOn)) ∧
    (s.host = [] → s.job = none → step s = .next s)

/-- START acceptance (40_common.md R111), and the step after it where no host event is due: the latched command's meaning,
or the completion of a block that is no command. That this step is the engine's is the model's choice (assumption 4), and
so is RESULT = −1 after such a block with OPTTHRESH's or ADAPTHRESH's opcode (assumption 15). -/
def Obligations.StartIsAccepted : Prop :=
  ∀ (s : State) (v : Word), v.getLsbD 0 = true → v.getLsbD 31 = false → s.busy = false →
    let t := hostWrite s 0x004#32 .four v
    t.job = some ⟨s.cmd, 0, .toPoll⟩ ∧ t.busy = true ∧ t.done = false ∧ t.cancelled = false ∧ t.err = .ok ∧
    t.progress = 0 ∧
    t.haz = s.haz ∧ t.cancel = v.getLsbD 1 ∧ t.ie = v.getLsbD 2 ∧ t.result = s.result ∧ t.cmd = s.cmd ∧
    t.slots = s.slots ∧ (∀ i, t.coef i = s.coef i) ∧
    ((∀ e ∈ t.host.head?, 0 < e.wait) →
      (∀ i, decode s.cmd = .ok i → step t = exec i t) ∧
      (∀ e, decode s.cmd = .error e → step t = .next (t.illegalCommand s.cmd)))

/-- 30_encoding.md R104, R105 and 60_exceptions.md R281: a block that is no command completes with IllegalCommand and
changes no slot and no KRAM; RESULT becomes −1 where the opcode is OPTTHRESH's or ADAPTHRESH's and stays otherwise
(assumption 15). -/
def Obligations.IllegalBlockCompletes : Prop :=
  ∀ (s : State) (j : Job) (e : DecodeError), s.job = some j → (∀ e ∈ s.host.head?, 0 < e.wait) →
    decode j.cmd = .error e →
    ∃ t, step s = .next t ∧ Completed s t .illegalCommand false s.progress ∧ t.slots = s.slots ∧
      t.result = if j.cmd.w0.extractLsb' 0 8 = 0x18#8 ∨ j.cmd.w0.extractLsb' 0 8 = 0x19#8 then 0xFFFFFFFF#32
        else s.result

/-- 60_exceptions.md R291: the acknowledgement clears DONE and restores nothing. -/
def Obligations.AcknowledgeClearsDoneOnly : Prop :=
  ∀ (s : State) (v : Word),
    hostWrite s 0x008#32 .four v =
      { s with
        done := if v.getLsbD 1 then false else s.done
        haz := if v.getLsbD 3 then false else s.haz }

/-- 60_exceptions.md R280..R283 and 41_convolution.md R162 for the same-format commands: the checks in their order, the
first that fails being reported, with no other effect. -/
def Obligations.SameFormatChecksInOrder : Prop :=
  ∀ (s : State) (sa sb : SlotArg) (i : Instr) (params : Bool), SameFormat sa sb i params →
    let source := ∃ a : SlotNo, sa = .slot a ∧ (s.slot a).valid .default = true
    let target := ¬ IsBadSlot sb
    let format := ∀ a : SlotNo, sa = .slot a → (s.slot a).cls = .rgb24 ∨ (s.slot a).cls = .gray8
    let fails := fun code => exec i s = .next (s.complete code false)
    (¬ (source ∧ target) → fails .invalidBuffer) ∧
    (source ∧ target → ¬ format → fails .unsupportedFormat) ∧
    (source ∧ target → format → params = false → fails .invalidArgument)

/-- 60_exceptions.md R282, R283 for FFT2. -/
def Obligations.Fft2ChecksInOrder : Prop :=
  ∀ (s : State) (sa sb sc sd : SlotArg) (inv pow2 mag : Bool),
    let good := fun a : SlotArg => a = .null ∨ ∃ i : SlotNo, a = .slot i ∧ (s.slot i).valid .default = true
    let buffers := good sa ∧ good sb ∧ ¬ IsBadSlot sc ∧ ¬ IsBadSlot sd ∧ ¬ (sa = .null ∧ sb = .null)
    let sizes := ∀ a b : SlotNo, sa = .slot a → sb = .slot b → (s.slot a).w = (s.slot b).w ∧ (s.slot a).h = (s.slot b).h
    let targets := ¬ ∃ i, Target sc sa i ∧ Target sd sb i
    let main := if sa = .null then sb else sa
    let fits := ∀ m : SlotNo, main = .slot m →
      let w := if pow2 then nextPow2 (s.slot m).width else (s.slot m).width
      let h := if pow2 then nextPow2 (s.slot m).height else (s.slot m).height
      w ≤ 65535 ∧ h ≤ 65535 ∧ w * h ≤ 2 ^ 24
    let fails := fun code => exec (.fft2 sa sb sc sd inv pow2 mag) s = .next (s.complete code false)
    (¬ buffers → fails .invalidBuffer) ∧
    (buffers → ¬ sizes → fails .dimensionMismatch) ∧
    (buffers → sizes → ¬ (targets ∧ fits) → fails .invalidArgument)

/-- 60_exceptions.md R281..R283 for OPTTHRESH and ADAPTHRESH: the checks in their order, each failure setting RESULT
to −1. -/
def Obligations.ThresholdChecksInOrder : Prop :=
  ∀ (s : State) (sa sb sc : SlotArg) (method : BitVec 3) (box : Option BoxArg) (boxSize bias balance : Word),
    let source := ∃ a : SlotNo, sa = .slot a ∧ (s.slot a).valid .default = true
    let aux := sb = .null ∨ ∃ m : SlotNo, sb = .slot m ∧ (s.slot m).valid .default = true
    let mask := ∀ a m : SlotNo, sa = .slot a → sb = .slot m →
      (s.slot m).cls = .gray8 ∧ (s.slot m).w = (s.slot a).w ∧ (s.slot m).h = (s.slot a).h
    let depth := ∀ a : SlotNo, sa = .slot a → (s.slot a).depth = 2#2
    let failed := fun code => { s with result := 0xFFFFFFFF#32 }.complete code false
    let opt := fun code => exec (.optthresh sa sb method box) s = .next (failed code)
    let adapt := fun code => exec (.adaptthresh sa sb sc method boxSize bias balance) s = .next (failed code)
    (¬ (source ∧ aux) → opt .invalidBuffer ∧ adapt .invalidBuffer) ∧
    (IsBadSlot sc → adapt .invalidBuffer) ∧
    (source ∧ aux → ¬ depth → opt .unsupportedFormat) ∧
    (source ∧ aux → ¬ mask → (depth → opt .dimensionMismatch) ∧ (¬ IsBadSlot sc → adapt .dimensionMismatch)) ∧
    (source ∧ aux → mask → 4 < method.toNat →
      (depth → opt .invalidArgument) ∧ (¬ IsBadSlot sc → adapt .invalidArgument)) ∧
    (source ∧ aux → mask → F64.ofF32 balance = .nan → ¬ IsBadSlot sc → adapt .invalidArgument)

/-- 60_exceptions.md R282, R283 for THRESHMASK, FLOODFILL and TRACE. -/
def Obligations.RegionAndMaskChecksInOrder : Prop :=
  ∀ (s : State) (sa sb sc : SlotArg),
    let good := fun a : SlotArg => ∃ i : SlotNo, a = .slot i ∧ (s.slot i).valid .default = true
    (¬ (good sa ∧ good sb) ∨ IsBadSlot sc → exec (.threshmask sa sb sc) s = .next (s.complete .invalidBuffer false)) ∧
    (good sa → good sb → ¬ IsBadSlot sc →
      ¬ (∀ a m : SlotNo, sa = .slot a → sb = .slot m →
        (s.slot m).cls = .gray8 ∧ (s.slot m).w = (s.slot a).w ∧ (s.slot m).h = (s.slot a).h) →
      exec (.threshmask sa sb sc) s = .next (s.complete .dimensionMismatch false)) ∧
    (∀ target traceColor, ¬ good sa ∨ IsBadSlot sb →
      exec (.trace sa sb target traceColor) s = .next (s.complete .invalidBuffer false)) ∧
    (∀ track x0 y0 color index tolerance opacity level,
      let fill := exec (.floodfill sa track x0 y0 color index tolerance opacity level) s
      (¬ good sa → fill = .next (s.complete .invalidBuffer false)) ∧
      (∀ a : SlotNo, sa = .slot a → (s.slot a).valid .default = true → (s.slot a).depth ≠ 3#2 →
        (s.slot a).paln.toNat ≤ index.toNat → fill = .next (s.complete .invalidArgument false)))

/-- 60_exceptions.md R290, R281: a command that completes with an error has changed no slot, no KRAM, no CTRL bit and
no CMD word; RESULT is −1 after OPTTHRESH and ADAPTHRESH and otherwise unchanged. -/
def Obligations.ErrorCompletionsChangeNothing : Prop :=
  ∀ (i : Instr) (s t : State), s.err = .ok → exec i s = .next t → t.err ≠ .ok →
    t.slots = s.slots ∧ KeepsControl s t ∧ t.done = true ∧ t.busy = false ∧ t.cancelled = false ∧
      t.result = if isThreshold i then 0xFFFFFFFF#32 else s.result

/-- 10_state.md R31, R137: no command writes CTRL, HAZ, a CMD word or KRAM; and R30: none but OPTTHRESH and
ADAPTHRESH writes RESULT. The model's own list of host events keeps its acts, in their order. -/
def Obligations.NoCommandWritesItsInputs : Prop :=
  ∀ (i : Instr) (s t : State), exec i s = .next t →
    t.cancel = s.cancel ∧ t.ie = s.ie ∧ t.haz = s.haz ∧ t.cmd = s.cmd ∧ (∀ n, t.coef n = s.coef n) ∧
    t.replies = s.replies ∧ t.host.map HostEvent.act = s.host.map HostEvent.act ∧
    (isThreshold i = false → t.result = s.result)

/-- 40_common.md R114, R116, R132: a command writes no slot but its destinations. -/
def Obligations.OnlyDestinationsChange : Prop :=
  ∀ (i : Instr) (s t : State), exec i s = .next t → ∀ d, ¬ MayWrite i d → t.slot d = s.slot d

/-- 40_common.md R114: "Slots not named are never read or written". Replacing a slot that the command does not name
changes nothing else of what the command does. -/
def Obligations.UnnamedSlotsDoNotMatter : Prop :=
  ∀ (i : Instr) (s : State) (j : SlotNo) (v : Slot), (∀ f ∈ slotFields i, f ≠ .slot j) →
    ∃ t, exec i s = .next t ∧ exec i (s.withSlot j v) = .next (t.withSlot j v)

/-- 40_common.md R114, 20_memory.md R83: only FILTER reads KRAM, and it reads entries 0..K²−1. -/
def Obligations.OnlyFilterReadsTheKernel : Prop :=
  ∀ (i : Instr) (s : State) (m : Mem (BitVec 16)) (g : Nat),
    (∀ sa sb k factor bias, i = .filter sa sb k factor bias →
      ∀ n, n < k.toNat * k.toNat → { s with kram := m, kramGen := g }.coef n = s.coef n) →
    ∃ t, exec i s = .next t ∧ exec i { s with kram := m, kramGen := g } = .next { t with kram := m, kramGen := g }

/-- 10_state.md R57, 20_memory.md R74, R80, 40_common.md R133, R135: while a command is still in progress after its turn
it has published nothing: no slot, no RESULT and no outcome has changed, and its latched block is the same. It stands
exactly where the host's next event is due, anywhere in its polls and units (70_reset_and_hazards.md R323, R324),
PROGRESS being that of the last poll, of the command's own number of units. That a destination changes at completion
only is the model's choice (assumption 5), and so are the three engine steps of a unit (assumption 31). -/
def Obligations.NothingIsPublishedWhileBusy : Prop :=
  ∀ (i : Instr) (s t : State), exec i s = .next t → t.busy = true →
    t.slots = s.slots ∧ t.result = s.result ∧ t.done = s.done ∧ t.err = s.err ∧ t.cancelled = s.cancelled ∧
    t.job.map Job.cmd = s.job.map Job.cmd ∧
    let stands := fun u : State => 3 * u.unitsDone + match u.phase with
      | .toPoll => 0
      | .reported => 1
      | .passed => 2
      | .stopping => 2
    let poll := (stands t - 1) / 3
    ∃ e rest, s.host = e :: rest ∧ t.host = { e with wait := 0 } :: rest ∧ stands t = stands s + e.wait ∧
      (e.wait = 0 → t = s) ∧
      (0 < e.wait → ∃ n, PollUnits s i n ∧ stands t ≤ 3 * n ∧
        t.progress = (if stands s < 3 * poll + 1 then BitVec.ofNat 8 (100 * poll / n) else s.progress) ∧
        (t.phase = .stopping → s.stopsAt n t.unitsDone) ∧ (t.phase = .passed → ¬ s.stopsAt n t.unitsDone))

/-- 70_reset_and_hazards.md R312: where no slot is valid, as after reset, every command fails with InvalidBuffer and
changes no slot. -/
def Obligations.NoCommandSucceedsWithoutASlot : Prop :=
  ∀ (i : Instr) (s : State), (∀ j, (s.slot j).valid .default = false) →
    ∃ t, exec i s = .next t ∧ t.err = .invalidBuffer ∧ t.done = true ∧ t.busy = false ∧ t.slots = s.slots

/-- 70_reset_and_hazards.md R322: with a command in progress and no further host action, one step of the model ends
it: BUSY falls and DONE is set. That one step is enough is the model's choice (assumption 5): R324 leaves the number of
engine steps open. -/
def Obligations.CommandsCompleteWithoutTheHost : Prop :=
  ∀ s : State, s.busy = true → s.host = [] → ∃ t, step s = .next t ∧ t.busy = false ∧ t.done = true

/-- 20_memory.md R77, 70_reset_and_hazards.md R324: a host read that lands in the middle of a command changes nothing
of its outcome, whatever CANCEL is. From a state where the host does nothing and from the same state where it reads once,
after any number of engine steps, the machine comes to the same state but for what the host has read. The interleaving
is an input of the model (assumption 4). -/
def Obligations.AReadWhileBusyDoesNotDisturb : Prop :=
  ∀ (s : State) (j : Job) (i : Instr) (wait : Nat) (a : Word) (n : Width),
    s.job = some j → decode j.cmd = .ok i → s.host = [] →
    ∃ t k r, step s = .next t ∧
      Host.Core.run Sys2Proof.core k { s with host := [⟨wait, .read a n⟩] } =
        .next { t with replies := r :: t.replies, draws := t.draws + 1 }

/-! ### Same-format commands -/

/-- FILTER (41_convolution.md R150..R153): every in-scope lane is the renormalized weighted sum over the window. -/
def Obligations.FilterConvolves : Prop :=
  ∀ (s : State) (a d : SlotNo) (sb : SlotArg) (k : Byte) (factor bias : Word),
    dest a sb = .ok d → (s.slot a).valid .default = true → (s.slot a).laned = true → k.toNat % 2 = 1 → k.toNat ≤ 15 →
    s.pollsPass (s.slot a).scanBox.rows → s.quiet (s.slot a).scanBox.rows →
    let img := s.slot a
    let c := fun i : Nat => (s.coef i).toInt
    ∃ t, exec (.filter (.slot a) sb k factor bias) s = .next t ∧
      SameFormatDone s t a d (fun x y => img.inscope x y = true) fun x y ch v =>
        let win := (Finset.range img.width ×ˢ Finset.range img.height).filter fun p =>
          inWindow k.toNat img x y p = true
        let ci := fun p : Nat × Nat =>
          c ((p.1 + k.toNat / 2 - x) + k.toNat * (p.2 + k.toNat / 2 - y))
        let total := ∑ i ∈ Finset.range (k.toNat * k.toNat), c i
        let summed := ∑ p ∈ win, ci p
        let sum := ∑ p ∈ win, ci p * (img.lane p.1 p.2 ch : Int)
        let val :=
          if factor.toInt = 0 ∨ summed = 0 then sum + bias.toInt
          else if summed = total then Int.tdiv sum factor.toInt + bias.toInt
          else Int.tdiv (sum * total) (summed * factor.toInt) + bias.toInt
        (v.toNat : Int) = max 0 (min 255 val)

/-- ERODE (R155): every in-scope lane is the least of its window. -/
def Obligations.ErodeTakesTheWindowMinimum : Prop :=
  ∀ (s : State) (a d : SlotNo) (sb : SlotArg) (k : Byte),
    dest a sb = .ok d → (s.slot a).valid .default = true → (s.slot a).laned = true → 1 ≤ k.toNat →
    s.pollsPass (s.slot a).scanBox.rows → s.quiet (s.slot a).scanBox.rows →
    ∃ t, exec (.erode (.slot a) sb k) s = .next t ∧
      SameFormatDone s t a d (fun x y => (s.slot a).inscope x y = true) fun x y ch v =>
        IsWindowMin k.toNat (s.slot a) x y ch v.toNat

/-- DILATE (R156): every in-scope lane is the largest of its window. -/
def Obligations.DilateTakesTheWindowMaximum : Prop :=
  ∀ (s : State) (a d : SlotNo) (sb : SlotArg) (k : Byte),
    dest a sb = .ok d → (s.slot a).valid .default = true → (s.slot a).laned = true → 1 ≤ k.toNat →
    s.pollsPass (s.slot a).scanBox.rows → s.quiet (s.slot a).scanBox.rows →
    ∃ t, exec (.dilate (.slot a) sb k) s = .next t ∧
      SameFormatDone s t a d (fun x y => (s.slot a).inscope x y = true) fun x y ch v =>
        IsWindowMax k.toNat (s.slot a) x y ch v.toNat

/-- EDGE (42_edge_contour.md R180, R181, R184): 255 less the spread of the window. -/
def Obligations.EdgeIsTheInvertedSpread : Prop :=
  ∀ (s : State) (a d : SlotNo) (sb : SlotArg) (k : Byte),
    dest a sb = .ok d → (s.slot a).valid .default = true → (s.slot a).laned = true → 1 ≤ k.toNat →
    s.pollsPass (s.slot a).scanBox.rows → s.quiet (s.slot a).scanBox.rows →
    ∃ t, exec (.edge (.slot a) sb k) s = .next t ∧
      SameFormatDone s t a d (fun x y => (s.slot a).inscope x y = true) fun x y ch v =>
        ∃ mx mn, IsWindowMax k.toNat (s.slot a) x y ch mx ∧ IsWindowMin k.toNat (s.slot a) x y ch mn ∧
          (v.toNat : Int) = 255 - ((mx : Int) - mn)

/-- CONTOUR (R182, R183): 255 less the largest neighbour-minus-centre difference of the 3×3 window. -/
def Obligations.ContourIsTheInvertedGradient : Prop :=
  ∀ (s : State) (a d : SlotNo) (sb : SlotArg),
    dest a sb = .ok d → (s.slot a).valid .default = true → (s.slot a).laned = true →
    s.pollsPass (s.slot a).scanBox.rows → s.quiet (s.slot a).scanBox.rows →
    ∃ t, exec (.contour (.slot a) sb) s = .next t ∧
      SameFormatDone s t a d (fun x y => (s.slot a).inscope x y = true) fun x y ch v =>
        let diff := fun p : Nat × Nat => ((s.slot a).lane p.1 p.2 ch : Int) - (s.slot a).lane x y ch
        (∃ p, inWindow 3 (s.slot a) x y p = true ∧ (v.toNat : Int) = 255 - diff p) ∧
          ∀ p, inWindow 3 (s.slot a) x y p = true → diff p ≤ 255 - (v.toNat : Int)

/-- MEDIAN (41_convolution.md R169, R170): the colour of a window pixel whose key stands at position n div 2 of the
window's keys in ascending order. -/
def Obligations.MedianTakesTheMiddleKey : Prop :=
  ∀ (s : State) (a d : SlotNo) (sb : SlotArg) (k : Byte),
    dest a sb = .ok d → (s.slot a).valid .default = true → (s.slot a).laned = true → 1 ≤ k.toNat →
    s.pollsPass (s.slot a).scanBox.rows → s.quiet (s.slot a).scanBox.rows →
    let img := s.slot a
    let key := fun p : Nat × Nat =>
      if img.depth = 3#2 then img.lane p.1 p.2 0 * 65536 + img.lane p.1 p.2 1 * 256 + img.lane p.1 p.2 2
      else img.lane p.1 p.2 0
    ∃ t, exec (.median (.slot a) sb k) s = .next t ∧
      SameFormatDone s t a d (fun x y => img.inscope x y = true) fun x y ch v =>
        let win := (Finset.range img.width ×ˢ Finset.range img.height).filter fun p =>
          inWindow k.toNat img x y p = true
        ∃ p ∈ win, v.toNat = img.lane p.1 p.2 ch ∧
          (win.filter fun q => key q < key p).card ≤ win.card / 2 ∧
          win.card / 2 < (win.filter fun q => key q ≤ key p).card

/-- GAUSSBLUR (41_convolution.md R158..R163): every in-scope lane takes the two-pass blur of the whole image with the
weights of its radius. That a nonzero radius of magnitude up to 2^−54 has one weight, by R158's formula in binary64 and
against R163's `L ≥ 3`, is the model's choice (assumption 11). -/
def Obligations.GaussblurBlursEveryPixelInScope : Prop :=
  ∀ (s : State) (a d : SlotNo) (sb : SlotArg) (radius : Word),
    dest a sb = .ok d → (s.slot a).valid .default = true → (s.slot a).laned = true →
    (F64.ofF32 radius).isFinite = true → F64.le (F64.ofF32 radius).abs (F64.ofNat 255) = true →
    s.pollsPass (s.slot a).width → s.quiet (s.slot a).width →
    ∃ w t, IsGaussKernel (F64.ofF32 radius) w ∧ exec (.gaussblur (.slot a) sb radius) s = .next t ∧
      SameFormatDone s t a d (fun x y => (s.slot a).inscope x y = true) fun x y ch v =>
        v.toNat = twoPassBlur w (s.slot a) x y ch

/-- 41_convolution.md R163: radius ±0 gives one weight, 1.0, and the identity. -/
def Obligations.GaussblurOfRadiusZeroIsTheIdentity : Prop :=
  ∀ (s : State) (a d : SlotNo) (sb : SlotArg) (radius : Word), radius = 0#32 ∨ radius = 0x80000000#32 →
    dest a sb = .ok d → (s.slot a).valid .default = true → (s.slot a).laned = true →
    s.pollsPass (s.slot a).width → s.quiet (s.slot a).width →
    gaussWeights .default (F64.ofF32 radius) = [F64.one] ∧
    ∃ t, exec (.gaussblur (.slot a) sb radius) s = .next t ∧
      SameFormatDone s t a d (fun _ _ => False) fun _ _ _ _ => True

/-- UNSHARP (R164, R165): every in-scope lane is the merge of R164 of its value with its blurred value: kept where the
difference is below the threshold, else moved by the amount times the difference. The blur is that of R158..R162; the one
weight of a nonzero radius of magnitude up to 2^−54 is the model's choice (assumption 11). -/
def Obligations.UnsharpMergesWithTheBlur : Prop :=
  ∀ (s : State) (a d : SlotNo) (sb : SlotArg) (radius amount threshold : Word),
    dest a sb = .ok d → (s.slot a).valid .default = true → (s.slot a).laned = true →
    (F64.ofF32 radius).isFinite = true → F64.le (F64.ofF32 radius).abs (F64.ofNat 255) = true →
    (F64.ofF32 amount).isFinite = true →
    s.pollsPass (s.slot a).scanBox.rows → s.quiet (s.slot a).scanBox.rows →
    ∃ w t, IsGaussKernel (F64.ofF32 radius) w ∧ exec (.unsharp (.slot a) sb radius amount threshold) s = .next t ∧
      SameFormatDone s t a d (fun x y => (s.slot a).inscope x y = true) fun x y ch v =>
        let old := (s.slot a).lane x y ch
        let diff : Int := (old : Int) - twoPassBlur w (s.slot a) x y ch
        v.toNat = if |diff| < threshold.toInt then old
          else clampTrunc (F64.add (F64.ofNat old) (F64.mul (F64.ofF32 amount) (F64.ofInt diff)))

/-- SELBLUR (R166..R168, SELBLUR_BAND = OUTSIDE, assumption 8): the in-scope pixels with a lane of the Laplacian
image (FILTER's computation with −100 about 801, factor 800, bias 128) outside the band take their blurred values. The one
weight of a nonzero radius of magnitude up to 2^−54 is the model's choice (assumption 11). -/
def Obligations.SelblurBlursOutsideTheBand : Prop :=
  ∀ (s : State) (a d : SlotNo) (sb : SlotArg) (radius : Word) (threshold : Byte),
    dest a sb = .ok d → (s.slot a).valid .default = true → (s.slot a).laned = true →
    (F64.ofF32 radius).isFinite = true → F64.le (F64.ofF32 radius).abs (F64.ofNat 255) = true →
    s.pollsPass (s.slot a).width → s.quiet (s.slot a).width →
    let img := s.slot a
    let lap := fun x y ch : Nat =>
      let win := (Finset.range img.width ×ˢ Finset.range img.height).filter fun p => inWindow 3 img x y p = true
      let c := fun p : Nat × Nat => if p = (x, y) then (801 : Int) else -100
      let summed := ∑ p ∈ win, c p
      let sum := ∑ p ∈ win, c p * (img.lane p.1 p.2 ch : Int)
      let val :=
        if summed = 0 then sum + 128
        else if summed = 1 then Int.tdiv sum 800 + 128
        else Int.tdiv sum (summed * 800) + 128
      max 0 (min 255 val)
    ∃ w t, IsGaussKernel (F64.ofF32 radius) w ∧ exec (.selblur (.slot a) sb radius threshold) s = .next t ∧
      SameFormatDone s t a d
        (fun x y => img.inscope x y = true ∧ ∃ ch, ch < img.lanes ∧
          (lap x y ch < max 0 (128 - (threshold.toNat : Int)) ∨ min 255 (128 + (threshold.toNat : Int)) < lap x y ch))
        fun x y ch v => v.toNat = twoPassBlur w img x y ch

/-- 41_convolution.md R157 and 42_edge_contour.md R184, over the functions the commands compute: ERODE ≤ S ≤ DILATE,
EDGE = 255 − (DILATE − ERODE), CONTOUR = 255 − (DILATE₃ − S), CONTOUR ≥ EDGE₃. -/
def Obligations.MorphologyRelations : Prop :=
  ∀ (t : Slot) (k x y ch : Nat), 1 ≤ k → x < t.width → y < t.height →
    minLane t k x y ch ≤ t.lane x y ch ∧ t.lane x y ch ≤ maxLane t k x y ch ∧ maxLane t k x y ch ≤ 255 ∧
    edgeLane t k x y ch + (maxLane t k x y ch - minLane t k x y ch) = 255 ∧
    contourLane t x y ch + (maxLane t 3 x y ch - t.lane x y ch) = 255 ∧
    edgeLane t 3 x y ch ≤ contourLane t x y ch

/-- 40_common.md R134, R135, 70_reset_and_hazards.md R323, for the row-polled commands: a CANCEL that poll `k` reads, or
has read, leaves the rows before the k-th as the whole command writes them and the others as in the source. Where a command
stands between two engine steps is the model's own form (assumption 31). -/
def Obligations.CancelledRowsAreAPrefix : Prop :=
  ∀ (s t u : State) (i : Instr) (a d : SlotNo) (sb : SlotArg) (params : Bool) (k : Nat),
    RowPolled (.slot a) sb i → SameFormat (.slot a) sb i params → params = true → dest a sb = .ok d →
    (s.slot a).valid .default = true → (s.slot a).laned = true → s.stopsAt (s.slot a).scanBox.rows k →
    s.quiet (s.slot a).scanBox.rows →
    exec i s = .next t → exec i { s with cancel := false, host := [], job := none } = .next u →
    Completed s t .ok true (s.polledProgress (s.slot a).scanBox.rows k) ∧
    t.result = s.result ∧ OthersKept s t [d] ∧
    ResultImage (s.slot a) (s.slot d) (t.slot d)
      (fun x y => (s.slot a).inscope x y = true ∧ y < (s.slot a).scanBox.y0 + k)
      fun x y ch v => v = (u.slot d).pixByte ((s.slot a).offsetOf x y ch)

/-- The same for the column-polled commands (assumption 31 as well): the columns before the k-th. -/
def Obligations.CancelledColumnsAreAPrefix : Prop :=
  ∀ (s t u : State) (i : Instr) (a d : SlotNo) (sb : SlotArg) (params : Bool) (k : Nat),
    ColumnPolled (.slot a) sb i → SameFormat (.slot a) sb i params → params = true → dest a sb = .ok d →
    (s.slot a).valid .default = true → (s.slot a).laned = true → s.stopsAt (s.slot a).width k →
    s.quiet (s.slot a).width →
    exec i s = .next t → exec i { s with cancel := false, host := [], job := none } = .next u →
    Completed s t .ok true (s.polledProgress (s.slot a).width k) ∧
    t.result = s.result ∧ OthersKept s t [d] ∧
    ResultImage (s.slot a) (s.slot d) (t.slot d) (fun x _ => x < k)
      fun x y ch v => v = (u.slot d).pixByte ((s.slot a).offsetOf x y ch)

/-! ### FFT2 -/

/-- FFT2 (43_frequency.md R200..R210): each target slot is a FRESH_GRAY8 image of the working size holding the real,
or the imaginary, output of the transformed grid; a temporary target is discarded. The grid, the scale and the two
output forms are those of R202, with R128's gray value, R207, R208 and R209 (POW2's resampler is the default one,
assumption 8; that an IDX8 or IDX1 source is read through its palette is the model's reading, assumption 30). -/
def Obligations.Fft2WritesItsTargets : Prop :=
  ∀ (s : State) (sa sb sc sd : SlotArg) (inv pow2 mag : Bool) (p : FftPlan .default),
    s.fftPlan sa sb sc sd pow2 = .ok p → s.quiet 0 →
    let part := fun (src : Option SlotNo) (x y : Nat) => match src with
      | none => F64.zero
      | some a =>
        let img := s.slot a
        let g := if pow2 then grayOf img (x * img.width / p.w) (y * img.height / p.h) else grayOf img x y
        F64.ofInt ((g : Int) - 128)
    let grid := fftGrid .default inv p.w p.h fun x y => ⟨part p.srcR x y, part p.srcI x y⟩
    let n0 := F64.div (F64.ofNat (max p.w p.h)) (F64.ofNat 16)
    let n1 := if inv then F64.div (F64.ofNat 1) n0 else n0
    let nn := if mag then F64.mul n1 (F64.ofNat 4) else n1
    ∃ t, exec (.fft2 sa sb sc sd inv pow2 mag) s = .next t ∧ Succeeded s t ∧ t.result = s.result ∧
      OthersKept s t (p.tR.toList ++ p.tI.toList) ∧
      (∀ r, p.tR = some r → IsFreshGray8 (s.slot r) (t.slot r) p.w p.h fun x y =>
        let v := gridAt grid x y
        if mag then
          let size := F64.sqrt (F64.add (F64.mul v.re v.re) (F64.mul v.im v.im))
          clampTrunc (F64.mul nn (F64.add (F64.ofNat 3) (F64.log size)))
        else clampTrunc (F64.add (F64.ofNat 128) (F64.mul v.re nn))) ∧
      (∀ m, p.tI = some m → IsFreshGray8 (s.slot m) (t.slot m) p.w p.h fun x y =>
        let v := gridAt grid x y
        if mag then
          let d := if F64.eq v.re F64.zero = true then F64.ofFrac 1 (10 ^ 10) else v.re
          clampTrunc (F64.add (F64.ofNat 128) (F64.mul (F64.atan (F64.div v.im d)) nn))
        else clampTrunc (F64.add (F64.ofNat 128) (F64.mul v.im nn)))

/-- 43_frequency.md R200..R203, 60_exceptions.md R282, R283: exactly when FFT2 is accepted, and then its sources, its
targets and its working size. -/
def Obligations.Fft2PlansItsTargets : Prop :=
  ∀ (s : State) (sa sb sc sd : SlotArg) (pow2 : Bool),
    let good := fun a : SlotArg => a = .null ∨ ∃ i : SlotNo, a = .slot i ∧ (s.slot i).valid .default = true
    let buffers := good sa ∧ good sb ∧ ¬ IsBadSlot sc ∧ ¬ IsBadSlot sd ∧ ¬ (sa = .null ∧ sb = .null)
    let sizes := ∀ a b : SlotNo, sa = .slot a → sb = .slot b → (s.slot a).w = (s.slot b).w ∧ (s.slot a).h = (s.slot b).h
    let targets := ¬ ∃ i, Target sc sa i ∧ Target sd sb i
    let main := if sa = .null then sb else sa
    let fits := ∀ m : SlotNo, main = .slot m →
      let w := if pow2 then nextPow2 (s.slot m).width else (s.slot m).width
      let h := if pow2 then nextPow2 (s.slot m).height else (s.slot m).height
      w ≤ 65535 ∧ h ≤ 65535 ∧ w * h ≤ 2 ^ 24
    ((∃ p, s.fftPlan sa sb sc sd pow2 = .ok p) ↔ buffers ∧ sizes ∧ targets ∧ fits) ∧
    ∀ p, s.fftPlan sa sb sc sd pow2 = .ok p →
      (∀ i, p.srcR = some i ↔ sa = .slot i) ∧ (∀ i, p.srcI = some i ↔ sb = .slot i) ∧
      (∀ i, p.tR = some i ↔ Target sc sa i) ∧ (∀ i, p.tI = some i ↔ Target sd sb i) ∧
      (∀ i, p.tR = some i → p.tI ≠ some i) ∧
      ∃ m : SlotNo, main = .slot m ∧
        (pow2 = false → p.w = (s.slot m).width ∧ p.h = (s.slot m).height) ∧
        (pow2 = true →
          (∃ e, p.w = 2 ^ e) ∧ (s.slot m).width ≤ p.w ∧ (∀ e, (s.slot m).width ≤ 2 ^ e → p.w ≤ 2 ^ e) ∧
          (∃ e, p.h = 2 ^ e) ∧ (s.slot m).height ≤ p.h ∧ (∀ e, (s.slot m).height ≤ 2 ^ e → p.h ≤ 2 ^ e))

/-! ### The threshold commands -/

/-- 44_threshold.md R230..R235: OT fails exactly on a box with no pixel present in the mask; a single level `v` gives
`v − 1`, or 0 when `v = 0`; two or more give the candidate of the method, the split that maximizes the estimator's
objective or the average of the valid splits, where it lies strictly inside their range, and otherwise its midpoint. -/
def Obligations.ThresholdIsTheMethodsCandidate : Prop :=
  ∀ (g : Nat → Nat → Nat) (m : Nat → Nat → Bool) (method : Nat) (b : PixBox), (∀ x y, g x y < 256) → method ≤ 4 →
    (optimalThreshold .default g m method b = none ↔ ¬ HasPixel m b) ∧
    ∀ lo hi, Occurs g m b lo → Occurs g m b hi → (∀ v, Occurs g m b v → lo ≤ v ∧ v ≤ hi) →
      (lo = hi → optimalThreshold .default g m method b = some (hi - 1)) ∧
      (lo < hi → ∃ th, optimalThreshold .default g m method b = some th ∧
        (lo < th ∧ th < hi ∨ th = (lo + hi) / 2) ∧
        ((∃ c, candidate (levelCount g m b) lo hi method = some c ∧ lo < c ∧ c < hi ∧ th = c) ∨
          ((∀ c, candidate (levelCount g m b) lo hi method = some c → c ≤ lo ∨ hi ≤ c) ∧ th = (lo + hi) / 2)))

/-- OPTTHRESH (R236): on an image of DEPTH 2 with a fitting mask or none, RESULT is the threshold of the box, or −1
with NoThreshold where the box has no pixel present in the mask; no slot is written. -/
def Obligations.OptthreshReportsTheThreshold : Prop :=
  ∀ (s : State) (a : SlotNo) (sb : SlotArg) (m : Option (SlotNo)) (method : BitVec 3)
    (box : Option BoxArg),
    (s.slot a).valid .default = true → (s.slot a).depth = 2#2 → s.sourceOpt sb = .ok m →
    (∀ i, m = some i → maskFits (s.slot i) (s.slot a) = true) → method.toNat ≤ 4 → s.quiet 0 →
    let img := s.slot a
    let region : PixBox := match box with
      | none => ⟨0, 0, img.width, img.height⟩
      | some q => ⟨(max q.x0.toInt 0).toNat, (max q.y0.toInt 0).toNat, (min q.x1.toInt img.width).toNat,
          (min q.y1.toInt img.height).toNat⟩
    let present := fun x y => ∀ i, m = some i → (s.slot i).lane x y 0 ≠ 0
    let any := ∃ x y, region.x0 ≤ x ∧ x < region.x1 ∧ region.y0 ≤ y ∧ y < region.y1 ∧ present x y
    ∃ t, exec (.optthresh (.slot a) sb method box) s = .next t ∧ t.slots = s.slots ∧
      (any → Succeeded s t ∧ ∃ th, th ≤ 254 ∧ t.result = BitVec.ofNat 32 th ∧
        optimalThreshold .default (fun x y => img.lane x y 0) (s.maskAt m) method.toNat region = some th) ∧
      (¬ any → Completed s t .noThreshold false s.progress ∧ t.result = 0xFFFFFFFF#32)

/-- ADAPTHRESH (R238..R244, nearest RESAMPLE, assumption 8): with a threshold in every cell, the destination is the
black and white image of the pixels whose gray value (R128) is above their cell's mask value, and RESULT the global
threshold. -/
def Obligations.AdaptthreshBinarizesByCell : Prop :=
  ∀ (s : State) (a d : SlotNo) (sb sc : SlotArg) (m : Option (SlotNo)) (method : BitVec 3)
    (boxSize bias balance : Word),
    (s.slot a).valid .default = true → s.sourceOpt sb = .ok m → dest a sc = .ok d →
    (∀ i, m = some i → maskFits (s.slot i) (s.slot a) = true) → method.toNat ≤ 4 → F64.ofF32 balance ≠ .nan →
    let img := s.slot a
    let side := max boxSize.toNat 8
    let mw := (img.width + side - 1) / side
    let mh := (img.height + side - 1) / side
    let cell := fun tx ty : Nat => PixBox.mk (tx * side) (ty * side) (min (tx * side + side) img.width)
      (min (ty * side + side) img.height)
    let ot := optimalThreshold .default (grayOf img) (s.maskAt m) method.toNat
    let bal := F64.min F64.one (F64.max F64.zero (F64.ofF32 balance))
    (∀ tx ty, tx < mw → ty < mh → HasPixel (s.maskAt m) (cell tx ty)) →
    s.pollsPass (mw * mh) → s.quiet (mw * mh) →
    ∃ t g, exec (.adaptthresh (.slot a) sb sc method boxSize bias balance) s = .next t ∧ Succeeded s t ∧
      ot ⟨0, 0, img.width, img.height⟩ = some g ∧ t.result = BitVec.ofNat 32 g ∧ OthersKept s t [d] ∧
      IsFreshBw (s.slot d) (t.slot d) img.width img.height fun x y =>
        ∃ th, ot (cell (x / side) (y / side)) = some th ∧
          clampTrunc (F64.add (F64.ofInt bias.toInt)
            (F64.add (F64.mul (F64.sub F64.one bal) (F64.ofNat th)) (F64.mul bal (F64.ofNat g)))) < grayOf img x y

/-- ADAPTHRESH without success (R243, R244; 60_exceptions.md R286): an image without a present pixel makes it fail before
its first poll, whatever CANCEL is; with a global threshold the poll that reads, or has read, CANCEL = 1 stops it with
RESULT = g; a cell without a present pixel, past whose poll it comes, makes it fail, also where CANCEL was set after that
poll. A failure sets RESULT to −1, and no slot changes in any of the three. Where a command stands between two engine steps
is the model's own form (assumption 31). -/
def Obligations.AdaptthreshStopsWithoutWriting : Prop :=
  ∀ (s : State) (a d : SlotNo) (sb sc : SlotArg) (m : Option (SlotNo)) (method : BitVec 3)
    (boxSize bias balance : Word),
    (s.slot a).valid .default = true → s.sourceOpt sb = .ok m → dest a sc = .ok d →
    (∀ i, m = some i → maskFits (s.slot i) (s.slot a) = true) → method.toNat ≤ 4 → F64.ofF32 balance ≠ .nan →
    let img := s.slot a
    let side := max boxSize.toNat 8
    let mw := (img.width + side - 1) / side
    let mh := (img.height + side - 1) / side
    let cell := fun c : Nat => PixBox.mk (c % mw * side) (c / mw * side) (min (c % mw * side + side) img.width)
      (min (c / mw * side + side) img.height)
    let whole : PixBox := ⟨0, 0, img.width, img.height⟩
    ∃ t, exec (.adaptthresh (.slot a) sb sc method boxSize bias balance) s = .next t ∧
      (¬ HasPixel (s.maskAt m) whole →
        t.slots = s.slots ∧ Completed s t .noThreshold false s.progress ∧ t.result = 0xFFFFFFFF#32) ∧
      (∀ k, s.stopsAt (mw * mh) k → HasPixel (s.maskAt m) whole →
        (∀ c, s.unitsDone ≤ c → c < k → HasPixel (s.maskAt m) (cell c)) → s.quiet (mw * mh) →
        t.slots = s.slots ∧
        Completed s t .ok true (s.polledProgress (mw * mh) k) ∧
        ∃ g, optimalThreshold .default (grayOf img) (s.maskAt m) method.toNat whole = some g ∧
          t.result = BitVec.ofNat 32 g) ∧
      (∀ c, s.unitsDone ≤ c → c < mw * mh → s.pollsPass (c + 1) →
        ¬ HasPixel (s.maskAt m) (cell c) → s.quiet (mw * mh) →
        t.slots = s.slots ∧ t.err = .noThreshold ∧ t.cancelled = false ∧ t.done = true ∧ t.busy = false ∧
          t.result = 0xFFFFFFFF#32 ∧ KeepsControl s t)

/-- THRESHMASK (R242, R245): the black and white image of the pixels whose gray value exceeds the mask's index. The gray
value is R128's, out of the stored bytes and the palette. -/
def Obligations.ThreshmaskBinarizes : Prop :=
  ∀ (s : State) (a m d : SlotNo) (sc : SlotArg),
    (s.slot a).valid .default = true → (s.slot m).valid .default = true → maskFits (s.slot m) (s.slot a) = true →
    dest a sc = .ok d →
    s.quiet 0 →
    ∃ t, exec (.threshmask (.slot a) (.slot m) sc) s = .next t ∧ Succeeded s t ∧ t.result = s.result ∧
      OthersKept s t [d] ∧
      IsFreshBw (s.slot d) (t.slot d) (s.slot a).width (s.slot a).height fun x y =>
        ((s.slot m).pixByte (y * (s.slot m).width + x)).toNat < grayOf (s.slot a) x y

/-! ### The region commands -/

/-- FLOODFILL (45_region.md R260..R262): from a seed inside the image and the selection, exactly the pixels joined to
it by fillable neighbours are painted; the descriptor, the palette, alpha and every other byte stay, and so does the
selection when TRACKSEL = 0. -/
def Obligations.FloodfillPaintsTheRegion : Prop :=
  ∀ (s : State) (a : SlotNo) (track : Bool) (x0 y0 : BitVec 16) (color : Color)
    (index tolerance opacity level : Byte),
    (s.slot a).valid .default = true → ((s.slot a).depth ≠ 3#2 → index.toNat < (s.slot a).paln.toNat) → s.quiet 0 →
    let img := s.slot a
    let seed : Pt := (x0.toNat, y0.toNat)
    0 ≤ x0.toInt → 0 ≤ y0.toInt → seed.1 < img.width → seed.2 < img.height → img.inscope seed.1 seed.2 = true →
    ∃ t, exec (.floodfill (.slot a) track x0 y0 color index tolerance opacity level) s = .next t ∧
      Succeeded s t ∧ t.result = s.result ∧ OthersKept s t [a] ∧
      (t.slot a).sdim = img.sdim ∧ (t.slot a).depth = img.depth ∧ (t.slot a).paln = img.paln ∧
      (t.slot a).alpha = img.alpha ∧ (∀ i, (t.slot a).palEntry i = img.palEntry i) ∧
      (∀ o, (t.slot a).alpByte o = img.alpByte o) ∧ (∀ o, img.extent ≤ o → (t.slot a).pixByte o = img.pixByte o) ∧
      (∀ x y ch, x < img.width → y < img.height → ch < img.lanes →
        let old := img.pixByte (img.offsetOf x y ch)
        let new := (t.slot a).pixByte (img.offsetOf x y ch)
        (FillReach img seed tolerance.toNat (x, y) → IsPainted img.cls color index opacity ch old new) ∧
        (¬ FillReach img seed tolerance.toNat (x, y) → new = old)) ∧
      (track = false → (t.slot a).sfmt = img.sfmt ∧ (t.slot a).sbox0 = img.sbox0 ∧ (t.slot a).sbox1 = img.sbox1 ∧
        ∀ o, (t.slot a).selByte o = img.selByte o)

/-- FLOODFILL with TRACKSEL = 1 (R263): the visited pixels are OR'd into the selection, a new one where there was
none, and the box becomes the smallest about the pixels then selected, all zero when there is none. -/
def Obligations.FloodfillTracksTheSelection : Prop :=
  ∀ (s : State) (a : SlotNo) (x0 y0 : BitVec 16) (color : Color) (index tolerance opacity level : Byte),
    (s.slot a).valid .default = true → ((s.slot a).depth ≠ 3#2 → index.toNat < (s.slot a).paln.toNat) → s.quiet 0 →
    let img := s.slot a
    let seed : Pt := (x0.toNat, y0.toNat)
    0 ≤ x0.toInt → 0 ≤ y0.toInt → seed.1 < img.width → seed.2 < img.height → img.inscope seed.1 seed.2 = true →
    ∃ t, exec (.floodfill (.slot a) true x0 y0 color index tolerance opacity level) s = .next t ∧
      (t.slot a).selv = true ∧
      (∀ o, img.area ≤ o → (t.slot a).selByte o = img.selByte o) ∧
      (∀ x y, x < img.width → y < img.height →
        let old := if img.selv then img.selByte (y * img.width + x) else 0#8
        let new := (t.slot a).selByte (y * img.width + x)
        (FillReach img seed tolerance.toNat (x, y) → new = old ||| level) ∧
        (¬ FillReach img seed tolerance.toNat (x, y) → new = old)) ∧
      let now := fun x y => x < img.width ∧ y < img.height ∧
        ((img.selv = true ∧ img.inscope x y = true) ∨
          (FillReach img seed tolerance.toNat (x, y) ∧ (t.slot a).selByte (y * img.width + x) ≠ 0#8))
      let bx := fun q : BitVec 16 => q.toNat
      ((∀ x y, ¬ now x y) → (t.slot a).sbox0 = 0#32 ∧ (t.slot a).sbox1 = 0#32) ∧
      (∀ x y, now x y → bx (t.slot a).bx0 ≤ x ∧ x < bx (t.slot a).bx1 ∧ bx (t.slot a).by0 ≤ y ∧
        y < bx (t.slot a).by1) ∧
      ((∃ x y, now x y) →
        (∃ y, now (bx (t.slot a).bx0) y) ∧ (∃ y, now (bx (t.slot a).bx1 - 1) y) ∧
        (∃ x, now x (bx (t.slot a).by0)) ∧ (∃ x, now x (bx (t.slot a).by1 - 1)))

/-- 45_region.md R262: a seed outside the image or the selection is success with no change. -/
def Obligations.FloodfillOutsideIsANoOp : Prop :=
  ∀ (s : State) (a : SlotNo) (track : Bool) (x0 y0 : BitVec 16) (color : Color)
    (index tolerance opacity level : Byte),
    (s.slot a).valid .default = true → ((s.slot a).depth ≠ 3#2 → index.toNat < (s.slot a).paln.toNat) → s.quiet 0 →
    (x0.toInt < 0 ∨ y0.toInt < 0 ∨ (s.slot a).width ≤ x0.toNat ∨ (s.slot a).height ≤ y0.toNat ∨
      (s.slot a).inscope x0.toNat y0.toNat = false) →
    exec (.floodfill (.slot a) track x0 y0 color index tolerance opacity level) s = .next (s.complete .ok false)

/-- TRACE (45_region.md R267): the destination is a white image with the drawn points in the trace colour, as far as
the pixel plane reaches (assumption 12). -/
def Obligations.TraceDrawsOnWhite : Prop :=
  ∀ (s : State) (a d : SlotNo) (sb : SlotArg) (target traceColor : Color),
    (s.slot a).valid .default = true → dest a sb = .ok d → s.quiet 0 →
    ∃ t, exec (.trace (.slot a) sb target traceColor) s = .next t ∧ Succeeded s t ∧ t.result = s.result ∧
      OthersKept s t [d] ∧
      IsFreshRgb24 (s.slot d) (t.slot d) (s.slot a).width (s.slot a).height fun x y =>
        if (x, y) ∈ tracePoints (s.slot a) target then traceColor else ⟨255, 255, 255⟩

/-- 45_region.md R264..R267: nothing is drawn where no pixel has the target colour; otherwise the first such pixel in
scan order is drawn, every drawn pixel is inside and has the target colour, and every one but the start has a drawn
neighbour. The points drawn are those of R266's walk from it. Of the start's neighbours with the target colour, the first
counter-clockwise from the east is drawn; a start with none draws only itself. -/
def Obligations.TracePointsFollowTheTarget : Prop :=
  ∀ (t : Slot) (target : Color),
    ((∀ x y, x < t.width → y < t.height → t.color x y ≠ target) → tracePoints t target = []) ∧
    (∀ x0 y0, x0 < t.width → y0 < t.height → t.color x0 y0 = target →
      (∀ x y, x < t.width → y < t.height → t.color x y = target → y0 < y ∨ (y0 = y ∧ x0 ≤ x)) →
      let start : Pt := (x0, y0)
      let hit := fun (k x y : Nat) => IsHit t target start k (x, y)
      (∃ ps, Walk t target start start 0 0 0 ps ∧ ∀ p, p ∈ tracePoints t target ↔ p = start ∨ p ∈ ps) ∧
      (x0, y0) ∈ tracePoints t target ∧
      (∀ p ∈ tracePoints t target, p.1 < t.width ∧ p.2 < t.height ∧ t.color p.1 p.2 = target ∧
        (p ≠ (x0, y0) → ∃ q ∈ tracePoints t target, q ≠ p ∧ p.1 ≤ q.1 + 1 ∧ q.1 ≤ p.1 + 1 ∧ p.2 ≤ q.2 + 1 ∧
          q.2 ≤ p.2 + 1)) ∧
      (∀ k x y, hit k x y → (∀ j u v, j < k → ¬ hit j u v) → (x, y) ∈ tracePoints t target) ∧
      ((∀ k x y, ¬ hit k x y) → tracePoints t target = [(x0, y0)]))

/-! ### Host accesses -/

/-- 20_memory.md R71: a misaligned read returns 0 and, like a misaligned write, leaves every register and memory as
it was. -/
def Obligations.MisalignedAccessesDoNothing : Prop :=
  ∀ (s : State) (a : Word) (n : Width) (v : Word), a.toNat % n.bytes ≠ 0 →
    hostRead s a n = { s with replies := 0#32 :: s.replies, draws := s.draws + 1 } ∧ hostWrite s a n v = s

/-- 20_memory.md R61, R62, R64..R68: which addresses are mapped; an access to any other reads 0 and writes nothing,
with a command in progress too. -/
def Obligations.UnmappedAddressesReadZero : Prop :=
  ∀ (s : State) (a : Word) (n : Width) (v : Word),
    let region := a.toNat / 2 ^ 28
    let slot := a.toNat / 2 ^ 24 % 16
    let mapped :=
      (region = 0 ∧ a.toNat % 4 = 0 ∧
        (a.toNat < 0x018 ∨ (0x020 ≤ a.toNat ∧ a.toNat < 0x040) ∨ (0x100 ≤ a.toNat ∧ a.toNat < 0x180) ∨
          (0x800 ≤ a.toNat ∧ a.toNat < 0x800 + 4 * 225))) ∨
      (region = 1 ∧ slot < 8 ∧ a.toNat % 2 ^ 24 < 0x400 ∧ a.toNat % 4 = 0) ∨
      ((region = 2 ∨ region = 3 ∨ region = 4) ∧ slot < 8)
    (locate .default a = .unmapped ↔ ¬ mapped) ∧
      (¬ mapped → hostRead s a n = { s with replies := 0#32 :: s.replies, draws := s.draws + 1 } ∧
        hostWrite s a n v = s)

/-- 20_memory.md R73, 10_state.md R32: a read changes no register, no slot, no KRAM entry and no command in progress,
and with no command in progress every later read answers as before; every write but one of START or SRESET is
idempotent. -/
def Obligations.ReadsAreInertAndWritesIdempotent : Prop :=
  ∀ (s : State) (a : Word) (n : Width) (v : Word),
    hostAct s (.read a n) = { s with replies := memRead s a n :: s.replies, draws := s.draws + 1 } ∧
    (s.busy = false → ∀ b m, memRead (hostAct s (.read a n)) b m = memRead s b m) ∧
    ((a = 0x004#32 → v.getLsbD 0 = false ∧ v.getLsbD 31 = false) →
      hostWrite (hostWrite s a n v) a n v = hostWrite s a n v)

/-- 20_memory.md R65..R67, R69, R77: with no command in progress the k-th byte of a plane write reads back at
`addr + k`, every other plane byte is as before, and nothing but plane bytes changes: no register, no descriptor, no
palette, no KRAM entry. -/
def Obligations.PlaneWritesReadBack : Prop :=
  ∀ (s : State) (a : Word) (n : Width) (v : Word), s.busy = false → (locate .default a).isPlane = true →
    legal .default a n = true →
    let t := hostWrite s a n v
    (∀ b : Word, (locate .default b).isPlane = true →
      memRead t b .one =
        if a.toNat ≤ b.toNat ∧ b.toNat < a.toNat + n.bytes then
          (v.extractLsb' (8 * (b.toNat - a.toNat)) 8).setWidth 32
        else memRead s b .one) ∧
    t = { s with slots := t.slots } ∧
    ∀ j, t.slot j = { s.slot j with pix := (t.slot j).pix, alp := (t.slot j).alp, sel := (t.slot j).sel }

/-- 20_memory.md R69, R70: a wider plane read is its bytes, the lowest address in the low bits. -/
def Obligations.PlaneReadsAreLittleEndian : Prop :=
  ∀ (s : State) (a : Word), s.busy = false → (locate .default a).isPlane = true →
    (legal .default a .two = true →
      memRead s a .two = memRead s a .one ||| (memRead s (a + 1#32) .one <<< 8)) ∧
    (legal .default a .four = true →
      memRead s a .four = memRead s a .one ||| (memRead s (a + 1#32) .one <<< 8) |||
        (memRead s (a + 2#32) .one <<< 16) ||| (memRead s (a + 3#32) .one <<< 24))

/-- 10_state.md R26, R27, R29, 60_exceptions.md R280: the bits of CTRL, STATUS and PROGRESS, in every state; and
10_state.md R24..R27, R31, R35, R38..R40, 20_memory.md R64: what a written register, KRAM entry or palette entry reads back
as, with no command in progress. The reserved bits read 0. -/
def Obligations.RegistersReadBack : Prop :=
  ∀ (s : State) (v : Word) (i : SlotNo) (j : Fin 8) (n : Nat),
    let ctrl := memRead s 0x004#32 .four
    let status := memRead s 0x008#32 .four
    (ctrl.getLsbD 0 = false ∧ ctrl.getLsbD 1 = s.cancel ∧ ctrl.getLsbD 2 = s.ie ∧ ctrl.extractLsb' 3 29 = 0#29) ∧
    (status.getLsbD 0 = s.job.isSome ∧ status.getLsbD 1 = s.done ∧ status.getLsbD 2 = s.cancelled ∧
      status.getLsbD 3 = s.haz ∧ status.extractLsb' 4 4 = 0#4 ∧ (status.extractLsb' 8 4).toNat = errNumber s.err ∧
      status.extractLsb' 12 20 = 0#20) ∧
    (memRead s 0x00C#32 .four).toNat = s.progress.toNat ∧
    (s.busy = false →
      let back := fun a : Word => memRead (hostWrite s a .four v) a .four
      back (BitVec.ofNat 32 (0x020 + 4 * j.val)) = v ∧
      back (BitVec.ofNat 32 (0x100 + 16 * i.val)) = v ∧
      back (BitVec.ofNat 32 (0x104 + 16 * i.val)) = v &&& 0x01FF0113#32 ∧
      back (BitVec.ofNat 32 (0x108 + 16 * i.val)) = v ∧
      back (BitVec.ofNat 32 (0x10C + 16 * i.val)) = v ∧
      (n < 225 → back (BitVec.ofNat 32 (0x800 + 4 * n)) = v &&& 0x0000FFFF#32) ∧
      (n < 256 → back (BitVec.ofNat 32 (0x10000000 + i.val * 2 ^ 24 + 4 * n)) = v &&& 0x00FFFFFF#32) ∧
      (v.getLsbD 31 = false → back 0x004#32 = v &&& 0x00000006#32) ∧
      back 0x008#32 = status &&& ~~~(v &&& 0x0000000A#32) ∧
      back 0x000#32 = 0x49504531#32 ∧ back 0x00C#32 = progressWord s ∧ back 0x010#32 = s.result ∧
      back 0x014#32 = 0x00180F08#32)

/-- 20_memory.md R64, R69 and 10_state.md R31, R35, R38..R40: a palette write changes one entry of one palette, a KRAM
write one entry, a CMD write one word and a descriptor write the fields of one descriptor register of one slot; every
other entry, register, descriptor and plane byte, STATUS, CTRL and the command in progress stay. A CTRL write with neither
START nor SRESET changes CANCEL and IE alone (R26), and a write of a read-only register nothing (R32). An access to the
register or palette region that is not 4 bytes wide reads 0 and writes nothing, with a command in progress too (20_memory.md
R72). -/
def Obligations.RegisterWritesStayLocal : Prop :=
  ∀ (s : State) (v : Word) (i : SlotNo) (n : Nat),
    (∀ (a : Word) (k : Width), a.toNat < 2 ^ 29 → k ≠ .four → memRead s a k = 0#32 ∧ hostWrite s a k v = s) ∧
    (s.busy = false →
      let write := fun a : Nat => hostWrite s (BitVec.ofNat 32 a) .four v
      (v.getLsbD 0 = false → v.getLsbD 31 = false →
        write 0x004 = { s with cancel := v.getLsbD 1, ie := v.getLsbD 2 }) ∧
      (∀ a ∈ [0x000, 0x00C, 0x010, 0x014], write a = s) ∧
      (n < 256 →
        let t := write (0x10000000 + i.val * 2 ^ 24 + 4 * n)
        t = { s with slots := t.slots } ∧ OthersKept s t [i] ∧ t.slot i = { s.slot i with pal := (t.slot i).pal } ∧
          ∀ k, k ≠ n → (t.slot i).palEntry k = (s.slot i).palEntry k) ∧
      (n < 225 →
        let t := write (0x800 + 4 * n)
        t = { s with kram := t.kram } ∧ ∀ k, k ≠ n → t.coef k = s.coef k) ∧
      (n < 8 →
        let t := write (0x020 + 4 * n)
        t = { s with cmd := t.cmd } ∧ ∀ k : Fin 8, k.val ≠ n → cmdWordAt t.cmd k = cmdWordAt s.cmd k) ∧
      (n < 4 →
        let t := write (0x100 + 16 * i.val + 4 * n)
        let new := t.slot i
        let old := s.slot i
        t = { s with slots := t.slots } ∧ OthersKept s t [i] ∧
        new = { old with
          w := new.w, h := new.h, depth := new.depth, alpha := new.alpha, selv := new.selv, paln := new.paln,
          bx0 := new.bx0, by0 := new.by0, bx1 := new.bx1, by1 := new.by1 } ∧
        (n ≠ 0 → new.sdim = old.sdim) ∧ (n ≠ 1 → new.sfmt = old.sfmt) ∧ (n ≠ 2 → new.sbox0 = old.sbox0) ∧
        (n ≠ 3 → new.sbox1 = old.sbox1)))

/-- 20_memory.md R78, R79: while busy a write to a command input is dropped and sets HAZ, a CTRL write takes CANCEL and
IE, registers read their current values, and a read of a slot, palette or KRAM may return anything, which the model
draws afresh (assumption 2). -/
def Obligations.BusyAccesses : Prop :=
  ∀ (s : State) (a : Word) (n : Width) (v : Word), s.busy = true →
    (legal .default a n = true → 0x020 ≤ a.toNat → hostWrite s a n v = { s with haz := true }) ∧
    (a = 0x000#32 ∨ a = 0x00C#32 ∨ a = 0x010#32 ∨ a = 0x014#32 ∨ legal .default a n = false → hostWrite s a n v = s) ∧
    (v.getLsbD 31 = false → hostWrite s 0x004#32 .four v =
      { s with cancel := v.getLsbD 1, ie := v.getLsbD 2, haz := s.haz || v.getLsbD 0 }) ∧
    memRead s 0x000#32 .four = 0x49504531#32 ∧ memRead s 0x004#32 .four = ctrlWord s ∧
    memRead s 0x008#32 .four = statusWord s ∧ memRead s 0x00C#32 .four = progressWord s ∧
    memRead s 0x010#32 .four = s.result ∧ memRead s 0x014#32 .four = 0x00180F08#32 ∧
    (∀ i : Fin 8, memRead s (BitVec.ofNat 32 (0x020 + 4 * i.val)) .four = cmdWordAt s.cmd i) ∧
    (legal .default a .four = true → 0x040 ≤ a.toNat → memRead s a .four = Config.busyRead s.draws)

/-! ### Soft reset -/

/-- 70_reset_and_hazards.md R313, R314: the soft reset, whether or not a command is in progress and whatever else the
written word holds: the registers are cleared, no completion is recorded, KRAM and every slot that the aborted command
could not write are kept; the others are unknown (assumptions 3 and 18). That HAZ reads 0 even where the word holds
START too is the model's choice (assumption 10). -/
def Obligations.SoftResetClearsAndKeeps : Prop :=
  ∀ (s : State) (v : Word), v.getLsbD 31 = true →
    let t := hostWrite s 0x004#32 .four v
    ctrlWord t = 0#32 ∧ statusWord t = 0#32 ∧ progressWord t = 0#32 ∧ t.result = 0#32 ∧ t.job = none ∧
    (∀ i, cmdWordAt t.cmd i = 0#32) ∧ t.irq = false ∧ (∀ n, t.coef n = s.coef n) ∧
    (s.job = none → t.slots = s.slots) ∧
    (∀ j e, s.job = some j → decode j.cmd = .error e → t.slots = s.slots) ∧
    (∀ j i, s.job = some j → decode j.cmd = .ok i →
      ∀ d, (¬ MayWrite i d → t.slot d = s.slot d) ∧ (MayWrite i d → (t.slot d).unknown))

/-! ### The transform -/

/-- The transform of FFT2 (43_frequency.md R204..R206): every row is transformed, then every column of the result; a
line whose length is no power of two takes R205's sums in every element; one of `2^m` samples, in every element, what the
stages of R204 give; and forward each is divided by the length. For one sample and for two it is written out. -/
def Obligations.Fft2TransformsRowsThenColumns : Prop :=
  ∀ inv : Bool,
    let line := transform1 .default inv
    let scaled := fun (n : Nat) (v : F64) => if inv then v else F64.div v (F64.ofNat n)
    (∀ (w h : Nat) (g : Nat → Nat → Cx) (x y : Nat), x < w → y < h →
      gridAt (fftGrid .default inv w h g) x y =
        cxAt (line ((List.range h).map fun v => cxAt (line ((List.range w).map fun u => g u v)) x)) y) ∧
    (∀ a : List Cx, (line a).length = a.length) ∧
    (∀ a : List Cx, (∀ m, a.length ≠ 2 ^ m) → ∀ i, i < a.length →
      let n := a.length
      let arg := F64.div (F64.mul (F64.mul (F64.mul (F64.ofInt (if inv then 1 else -1)) (F64.ofNat 2)) F64.pi)
        (F64.ofNat i)) (F64.ofNat n)
      let ca := fun k => F64.cos (F64.mul (F64.ofNat k) arg)
      let sa := fun k => F64.sin (F64.mul (F64.ofNat k) arg)
      let x2 := (List.range n).foldl (fun acc k =>
        F64.add acc (F64.sub (F64.mul (cxAt a k).re (ca k)) (F64.mul (cxAt a k).im (sa k)))) F64.zero
      let y2 := (List.range n).foldl (fun acc k =>
        F64.add acc (F64.add (F64.mul (cxAt a k).re (sa k)) (F64.mul (cxAt a k).im (ca k)))) F64.zero
      cxAt (line a) i = ⟨scaled n x2, scaled n y2⟩) ∧
    (∀ (m : Nat) (a : List Cx), a.length = 2 ^ m → ∀ i, i < 2 ^ m →
      let v := radix2 inv m (cxAt a) i
      cxAt (line a) i = ⟨scaled (2 ^ m) v.re, scaled (2 ^ m) v.im⟩) ∧
    (∀ p : Cx, line [p] = [⟨scaled 1 p.re, scaled 1 p.im⟩]) ∧
    (∀ p q : Cx,
      let t1 := F64.sub (F64.mul (F64.ofNat 1) q.re) (F64.mul F64.zero q.im)
      let t2 := F64.add (F64.mul (F64.ofNat 1) q.im) (F64.mul F64.zero q.re)
      line [p, q] = [⟨scaled 2 (F64.add p.re t1), scaled 2 (F64.add p.im t2)⟩,
        ⟨scaled 2 (F64.sub p.re t1), scaled 2 (F64.sub p.im t2)⟩])
end

