-- ==== Sys2Proof/Laws/Float.lean ====
section
/-! SUPPORT. What the helpers of the binary64 arithmetic compute. -/

namespace Sys2Proof.Machine

/-- `withNat n k` is `k n`. -/
@[simp] theorem withNat_eq {α : Type} (n : Nat) (k : Nat → α) : withNat n k = k n := by cases n <;> rfl

theorem log2From_eq (k n acc : Nat) (h : n < 2 ^ 2 ^ k) : log2From k n acc = acc + Nat.log2 n := by
  induction k generalizing n acc with
  | zero =>
    have : n = 0 ∨ n = 1 := by simp at h; omega
    rcases this with rfl | rfl <;> rfl
  | succ k ih =>
    simp only [log2From, withNat_eq, Nat.shiftRight_eq_div_pow]
    split
    · rename_i h0
      exact ih _ _ ((Nat.div_eq_zero_iff_lt (by positivity)).1 h0)
    · rename_i h0
      rw [ih _ _ (by rw [Nat.div_lt_iff_lt_mul (by positivity), ← pow_add, ← two_mul, ← pow_succ']; exact h)]
      simp only [Nat.log2_eq_log_two, Nat.log_div_base_pow]
      have : 2 ^ k ≤ Nat.log 2 n := Nat.le_log_of_pow_le (by omega) (by
        by_contra hc; exact h0 (Nat.div_eq_of_lt (by omega)))
      omega

/-- `log2` is the base-2 logarithm of the library. -/
@[simp] theorem log2_eq (n : Nat) : log2 n = Nat.log2 n := by
  unfold log2
  split
  · rename_i h
    rw [Nat.shiftRight_eq_div_pow] at h
    rw [log2From_eq 14 n 0 ((Nat.div_eq_zero_iff_lt (Nat.pow_pos (by decide))).1 h), Nat.zero_add]
  · rfl

end Sys2Proof.Machine
end

