-- ==== Sys2Proof/Laws/Config.lean ====
section
/-! SUPPORT. The default configuration is one that the spec allows, and `exec`, `step` and `core` are the machine of
that configuration. -/

namespace Sys2Proof.Machine

/-- The default parameters have legal values, and the default functions the special values of 40_common.md R125. -/
theorem default_legal : Config.default.Legal where
  nslot := by decide
  log_zero := by decide +kernel
  log_neg := fun m e h => by simp [F64.log, h]
  log_negInf := by decide +kernel
  log_one := by decide +kernel
  exp_zero := by decide +kernel
  exp_negInf := by decide +kernel
  atan_zero := by decide +kernel
  atan_inf := by decide +kernel
  sin_zero := ⟨by decide +kernel, true, by decide +kernel⟩
  cos_zero := by decide +kernel
  nan := by decide +kernel

/-- Each command does in `exec` what it does in the default configuration. -/
theorem exec_eq_execOf (i : Instr) (s : State) : exec i s = execOf i s := by cases i <;> rfl

/-- One step is a step of the default configuration. -/
theorem step_eq_stepOf (s : State) : step s = stepOf Config.default s := by
  have h : (exec : Instr → State → _) = execOf := funext fun i => funext (exec_eq_execOf i)
  simp only [step, stepOf, h]

/-- The machine the host's interface takes is that of the default configuration. -/
theorem core_eq_machineOf : Sys2Proof.core = machineOf Config.default := by
  have h : step = stepOf Config.default := funext step_eq_stepOf
  simp only [Sys2Proof.core, machineOf, h, State.reset]

end Sys2Proof.Machine
end

