-- ==== Sys2Proof/Laws/Gray.lean ====
section
/-! SUPPORT. The gray value that the commands compute is the one Safety spells out of the stored bytes. -/

namespace Sys2Proof.Machine

/-- The identity ramp of GRAY8 (10_state.md R44). -/
theorem isRamp_iff (t : Slot) :
    t.isRamp = true ↔ t.paln = 256#9 ∧
      ∀ i : Nat, i < 256 → t.palEntry i = ⟨BitVec.ofNat 8 i, BitVec.ofNat 8 i, BitVec.ofNat 8 i⟩ := by
  have h : t.paln.toNat = 256 ↔ t.paln = 256#9 := by simp [← BitVec.toNat_inj]
  simp [Slot.isRamp, grayColor, h]

/-- The weighted colour of a palette index (R43, 40_common.md R128). -/
theorem grayRgb_resolve (t : Slot) (v : Nat) :
    grayRgb (t.resolve v) = if v < t.paln.toNat then weighted (t.palEntry v) else 0 := by
  unfold Slot.resolve
  split
  · simp [grayRgb, weighted, Nat.shiftRight_eq_div_pow]
  · rfl

/-- `grayv` (R128) in every format. -/
theorem grayv_eq_grayOf (t : Slot) (x y : Nat) : t.grayv x y = grayOf t x y := by
  have depths : t.depth = 0#2 ∨ t.depth = 1#2 ∨ t.depth = 2#2 ∨ t.depth = 3#2 := by
    generalize t.depth = d; revert d; decide
  simp only [grayOf, ← isRamp_iff]
  rcases depths with h | h | h | h
  · simp [Slot.grayv, Slot.grayvAs, Slot.cls, Slot.color, Slot.lane, Slot.bpb, h, grayRgb_resolve]
  · simp [Slot.grayv, Slot.grayvAs, Slot.cls, Slot.color, Slot.lane, Slot.bpb, h, grayRgb_resolve]
  · cases r : t.isRamp <;>
      simp [Slot.grayv, Slot.grayvAs, Slot.cls, Slot.color, Slot.lane, Slot.bpb, h, r, grayRgb_resolve]
  · simp [Slot.grayv, Slot.grayvAs, Slot.cls, Slot.color, grayRgb, weighted, h, Nat.shiftRight_eq_div_pow,
      Nat.mul_comm]

end Sys2Proof.Machine
end

