-- ==== Sys2Proof/Laws/Memory.lean ====
section
/-! SUPPORT. What each memory operation reads as afterwards, and that each keeps the canonical form. -/

namespace Sys2Proof.Machine

variable {α : Type}

@[simp] theorem memGet_nil (a : Nat) : memGet a ([] : Mem α) = none := rfl

theorem memGet_cons (a k : Nat) (v : α) (r : Mem α) :
    memGet a ((k, v) :: r) = if k = a then some v else memGet a r := rfl

/-- A read after a write to the same index. -/
@[simp] theorem memGet_memPut_same (a : Nat) (v : α) (m : Mem α) : memGet a (memPut a v m) = some v := by
  induction m with
  | nil => simp [memPut, memGet]
  | cons c r ih =>
    obtain ⟨k, w⟩ := c
    by_cases h : a < k
    · simp [memPut, memGet, h]
    · by_cases h' : a = k
      · simp [memPut, memGet, h']
      · simp [memPut, memGet, h, h', Ne.symm h', ih]

/-- A write leaves every other index alone. -/
theorem memGet_memPut_other {a b : Nat} (h : b ≠ a) (v : α) (m : Mem α) :
    memGet b (memPut a v m) = memGet b m := by
  induction m with
  | nil => simp [memPut, memGet, h.symm]
  | cons c r ih =>
    obtain ⟨k, w⟩ := c
    by_cases h1 : a < k
    · simp [memPut, memGet, h1, h.symm]
    · by_cases h2 : a = k
      · subst h2; simp [memPut, memGet, h.symm]
      · simp [memPut, memGet, h1, h2, ih]

theorem memGet_memPut (a b : Nat) (v : α) (m : Mem α) :
    memGet b (memPut a v m) = if b = a then some v else memGet b m := by
  split
  · next h => subst h; simp
  · next h => exact memGet_memPut_other h v m

theorem memGet_filter {p : Nat → Bool} (a : Nat) (m : Mem α) :
    memGet a (m.filter fun c => p c.1) = if p a then memGet a m else none := by
  induction m with
  | nil => simp
  | cons c r ih =>
    obtain ⟨k, w⟩ := c
    by_cases hk : p k = true
    · by_cases hka : k = a
      · subst hka; simp [hk, memGet]
      · simp [hk, memGet, hka, ih]
    · by_cases hka : k = a
      · subst hka; simp [hk, ih]
      · simp [hk, memGet, hka, ih]

theorem memGet_append (a : Nat) (m r : Mem α) :
    memGet a (m ++ r) = (memGet a m).or (memGet a r) := by
  induction m with
  | nil => simp
  | cons c t ih =>
    obtain ⟨k, w⟩ := c
    by_cases h : k = a <;> simp [memGet, h, ih]

theorem memPatchCell_fst {f : Nat → Option α} {m : Mem α} {o : Nat} {c : Nat × α}
    (h : memPatchCell f m o = some c) : c.1 = o := by
  unfold memPatchCell at h
  split at h
  · cases h; rfl
  · obtain ⟨v, _, rfl⟩ := Option.map_eq_some_iff.mp h; rfl

theorem memPatchCell_snd {f : Nat → Option α} {m : Mem α} {o : Nat} :
    (memPatchCell f m o).map Prod.snd = (f o).or (memGet o m) := by
  unfold memPatchCell
  cases hf : f o <;> simp

theorem memGet_filterMap (f : Nat → Option α) (m : Mem α) (a : Nat) (l : List Nat) :
    memGet a (l.filterMap (memPatchCell f m)) = if a ∈ l then (f a).or (memGet a m) else none := by
  induction l with
  | nil => simp
  | cons o l ih =>
    rw [List.filterMap_cons]
    cases hc : memPatchCell f m o with
    | none =>
      have hs := memPatchCell_snd (f := f) (m := m) (o := o)
      rw [hc] at hs
      simp only [ih, List.mem_cons]
      by_cases hao : a = o
      · subst hao
        simp only [Option.map_none] at hs
        simp [← hs]
      · simp [hao]
    | some c =>
      have h1 := memPatchCell_fst hc
      have hs := memPatchCell_snd (f := f) (m := m) (o := o)
      rw [hc] at hs
      obtain ⟨k, w⟩ := c
      simp only at h1
      subst h1
      simp only [memGet, ih, List.mem_cons]
      by_cases hao : k = a
      · subst hao; simp only [Option.map_some] at hs; simp [← hs]
      · simp [hao, Ne.symm hao]

/-- A block write: below its bound the new value where it writes, the old one where it does not; from the bound on
the old one. -/
theorem memGet_memPatch (n : Nat) (f : Nat → Option α) (m : Mem α) (a : Nat) :
    memGet a (memPatch n f m) = if a < n then (f a).or (memGet a m) else memGet a m := by
  rw [memPatch, memGet_append, memGet_filterMap, memGet_filter (p := fun k => decide (n ≤ k))]
  by_cases h : a < n
  · have : ¬ n ≤ a := by omega
    simp [h, this]
  · have : n ≤ a := by omega
    simp [h, this]

/-- A fill: below its bound the new value, from it on the old one. -/
theorem memGet_memFill (n : Nat) (f : Nat → α) (m : Mem α) (a : Nat) :
    memGet a (memFill n f m) = if a < n then some (f a) else memGet a m := by
  rw [memFill, memGet_memPatch]
  split <;> simp

/-! ### The canonical form -/

theorem memWf_nil (size : Nat) : memWf size ([] : Mem α) = true := rfl

theorem memWfFrom_mono {lo lo' size : Nat} (h : lo' ≤ lo) {m : Mem α} (hm : memWfFrom lo size m = true) :
    memWfFrom lo' size m = true := by
  cases m with
  | nil => rfl
  | cons c r =>
    obtain ⟨k, v⟩ := c
    simp only [memWfFrom, Bool.and_eq_true, decide_eq_true_eq] at hm ⊢
    exact ⟨⟨by omega, hm.1.2⟩, hm.2⟩

theorem memPut_wfFrom {a lo size : Nat} (v : α) (hl : lo ≤ a) (ha : a < size) {m : Mem α}
    (hm : memWfFrom lo size m = true) : memWfFrom lo size (memPut a v m) = true := by
  induction m generalizing lo with
  | nil => simp [memPut, memWfFrom, hl, ha]
  | cons c r ih =>
    obtain ⟨k, w⟩ := c
    simp only [memWfFrom, Bool.and_eq_true, decide_eq_true_eq] at hm
    obtain ⟨⟨h1, h2⟩, h3⟩ := hm
    by_cases hk : a < k
    · simp only [memPut, hk, if_true, memWfFrom, Bool.and_eq_true, decide_eq_true_eq]
      exact ⟨⟨hl, ha⟩, ⟨by omega, h2⟩, h3⟩
    · by_cases he : a = k
      · subst he
        simp only [memPut, lt_irrefl, if_false, if_true, memWfFrom, Bool.and_eq_true, decide_eq_true_eq]
        exact ⟨⟨h1, h2⟩, h3⟩
      · simp only [memPut, hk, he, if_false, memWfFrom, Bool.and_eq_true, decide_eq_true_eq]
        exact ⟨⟨h1, h2⟩, ih (by omega) h3⟩

/-- A write inside the memory keeps the canonical form. -/
theorem memPut_wf {a size : Nat} (v : α) (ha : a < size) {m : Mem α} (hm : memWf size m = true) :
    memWf size (memPut a v m) = true := memPut_wfFrom v (Nat.zero_le a) ha hm

theorem memFilter_wfFrom {lo size n : Nat} (hn : lo ≤ n) {m : Mem α} (hm : memWfFrom lo size m = true) :
    memWfFrom n size (m.filter fun c => decide (n ≤ c.1)) = true := by
  induction m generalizing lo n with
  | nil => rfl
  | cons c r ih =>
    obtain ⟨k, w⟩ := c
    simp only [memWfFrom, Bool.and_eq_true, decide_eq_true_eq] at hm
    obtain ⟨⟨h1, h2⟩, h3⟩ := hm
    by_cases hk : n ≤ k
    · have hall : r.filter (fun c => decide (n ≤ c.1)) = r.filter (fun c => decide (k + 1 ≤ c.1)) := by
        have key : ∀ (l : Mem α) (lo : Nat), memWfFrom lo size l = true → n ≤ lo →
            ∀ q, q ≤ lo → l.filter (fun c => decide (n ≤ c.1)) = l.filter (fun c => decide (q ≤ c.1)) := by
          intro l
          induction l with
          | nil => intros; rfl
          | cons d t iht =>
            intro lo hl hnlo q hq
            obtain ⟨k', w'⟩ := d
            simp only [memWfFrom, Bool.and_eq_true, decide_eq_true_eq] at hl
            have e := iht (k' + 1) hl.2 (by omega) q (by omega)
            have a1 : n ≤ k' := by omega
            have a2 : q ≤ k' := by omega
            simp [a1, a2, e]
        exact key r (k + 1) h3 (by omega) (k + 1) le_rfl
      simp only [List.filter_cons, hk, decide_true, if_true, memWfFrom, Bool.and_eq_true, decide_eq_true_eq]
      exact ⟨⟨trivial, h2⟩, hall ▸ ih le_rfl h3⟩
    · simp only [List.filter_cons, hk, decide_false, Bool.false_eq_true, if_false]
      exact ih (by omega) h3

theorem memPatchPart_wfFrom {lo k size : Nat} (f : Nat → Option α) (m : Mem α) (rest : Mem α)
    (hsize : lo + k ≤ size) (hr : memWfFrom (lo + k) size rest = true) :
    memWfFrom lo size ((List.range' lo k).filterMap (memPatchCell f m) ++ rest) = true := by
  induction k generalizing lo with
  | zero => simpa using hr
  | succ k ih =>
    rw [List.range'_succ, List.filterMap_cons]
    have hrec := ih (lo := lo + 1) (by omega) (by rw [show lo + 1 + k = lo + (k + 1) by omega]; exact hr)
    cases hc : memPatchCell f m lo with
    | none => exact memWfFrom_mono (by omega) hrec
    | some c =>
      have h1 := memPatchCell_fst hc
      obtain ⟨a, w⟩ := c
      simp only at h1
      subst h1
      simp only [List.cons_append, memWfFrom, Bool.and_eq_true, decide_eq_true_eq]
      exact ⟨⟨le_rfl, by omega⟩, hrec⟩

/-- A block write inside the memory keeps the canonical form. -/
theorem memPatch_wf {n size : Nat} (hn : n ≤ size) (f : Nat → Option α) {m : Mem α} (hm : memWf size m = true) :
    memWf size (memPatch n f m) = true := by
  unfold memPatch memWf
  rw [List.range_eq_range']
  exact memPatchPart_wfFrom f m _ (by omega) (by simpa using memFilter_wfFrom (Nat.zero_le n) hm)

/-- A fill inside the memory keeps the canonical form. -/
theorem memFill_wf {n size : Nat} (hn : n ≤ size) (f : Nat → α) {m : Mem α} (hm : memWf size m = true) :
    memWf size (memFill n f m) = true := memPatch_wf hn _ hm

end Sys2Proof.Machine
end

