-- ==== Sys2Proof/Laws/Image.lean ====
section
/-! SUPPORT. What the operations that write a destination leave in each of its bytes. -/

namespace Sys2Proof.Machine

variable {cfg : Config}

/-! ### `paint` -/

@[simp] theorem Slot.paint_w (t : Slot) (p : Nat → Nat → Bool) (out : Nat → Nat → Nat → Nat) : (t.paint p out).w = t.w := rfl
@[simp] theorem Slot.paint_h (t : Slot) (p : Nat → Nat → Bool) (out : Nat → Nat → Nat → Nat) : (t.paint p out).h = t.h := rfl
@[simp] theorem Slot.paint_depth (t : Slot) (p : Nat → Nat → Bool) (out : Nat → Nat → Nat → Nat) : (t.paint p out).depth = t.depth := rfl
@[simp] theorem Slot.paint_alpha (t : Slot) (p : Nat → Nat → Bool) (out : Nat → Nat → Nat → Nat) : (t.paint p out).alpha = t.alpha := rfl
@[simp] theorem Slot.paint_selv (t : Slot) (p : Nat → Nat → Bool) (out : Nat → Nat → Nat → Nat) : (t.paint p out).selv = t.selv := rfl
@[simp] theorem Slot.paint_paln (t : Slot) (p : Nat → Nat → Bool) (out : Nat → Nat → Nat → Nat) : (t.paint p out).paln = t.paln := rfl
@[simp] theorem Slot.paint_bx0 (t : Slot) (p : Nat → Nat → Bool) (out : Nat → Nat → Nat → Nat) : (t.paint p out).bx0 = t.bx0 := rfl
@[simp] theorem Slot.paint_by0 (t : Slot) (p : Nat → Nat → Bool) (out : Nat → Nat → Nat → Nat) : (t.paint p out).by0 = t.by0 := rfl
@[simp] theorem Slot.paint_bx1 (t : Slot) (p : Nat → Nat → Bool) (out : Nat → Nat → Nat → Nat) : (t.paint p out).bx1 = t.bx1 := rfl
@[simp] theorem Slot.paint_by1 (t : Slot) (p : Nat → Nat → Bool) (out : Nat → Nat → Nat → Nat) : (t.paint p out).by1 = t.by1 := rfl
@[simp] theorem Slot.paint_pal (t : Slot) (p : Nat → Nat → Bool) (out : Nat → Nat → Nat → Nat) : (t.paint p out).pal = t.pal := rfl
@[simp] theorem Slot.paint_alp (t : Slot) (p : Nat → Nat → Bool) (out : Nat → Nat → Nat → Nat) : (t.paint p out).alp = t.alp := rfl
@[simp] theorem Slot.paint_sel (t : Slot) (p : Nat → Nat → Bool) (out : Nat → Nat → Nat → Nat) : (t.paint p out).sel = t.sel := rfl
@[simp] theorem Slot.paint_gen (t : Slot) (p : Nat → Nat → Bool) (out : Nat → Nat → Nat → Nat) : (t.paint p out).gen = t.gen := rfl

/-- Byte `o` of a painted pixel plane. -/
theorem Slot.pixByte_paint (t : Slot) (p : Nat → Nat → Bool) (out : Nat → Nat → Nat → Nat) (o : Nat) :
    (t.paint p out).pixByte o =
      if o < t.extent ∧ p (o / t.bpb % t.width) (o / t.bpb / t.width) = true then
        BitVec.ofNat 8 (out (o / t.bpb % t.width) (o / t.bpb / t.width) (o % t.bpb))
      else t.pixByte o := by
  unfold Slot.pixByte Slot.paint
  rw [memGet_memPatch]
  by_cases h : o < t.extent
  · by_cases hp : p (o / t.bpb % t.width) (o / t.bpb / t.width) = true
    · simp [h, hp]
    · simp [h, hp]
  · simp [h]

theorem Slot.alpByte_paint (t : Slot) (p : Nat → Nat → Bool) (out : Nat → Nat → Nat → Nat) (o : Nat) :
    (t.paint p out).alpByte o = t.alpByte o := rfl

theorem Slot.selByte_paint (t : Slot) (p : Nat → Nat → Bool) (out : Nat → Nat → Nat → Nat) (o : Nat) :
    (t.paint p out).selByte o = t.selByte o := rfl

theorem Slot.palEntry_paint (t : Slot) (p : Nat → Nat → Bool) (out : Nat → Nat → Nat → Nat) (o : Nat) :
    (t.paint p out).palEntry o = t.palEntry o := rfl

/-! ### `copyImage` -/

theorem pixByte_copyImage (t d : Slot) (o : Nat) :
    (copyImage t d).pixByte o = if o < t.extent then t.pixByte o else d.pixByte o := by
  unfold Slot.pixByte copyImage
  simp only [memGet_memFill]
  split <;> simp [Slot.pixByte]

theorem alpByte_copyImage (t d : Slot) (o : Nat) :
    (copyImage t d).alpByte o =
      if (t.alpha = true ∧ t.depth = 3#2) ∧ o < t.area then t.alpByte o else d.alpByte o := by
  unfold Slot.alpByte copyImage
  by_cases h : t.alpha = true ∧ t.depth = 3#2
  · simp only [h, and_self, if_true, memGet_memFill, true_and]
    split <;> simp [Slot.alpByte]
  · simp only [h, if_false, false_and]

theorem selByte_copyImage (t d : Slot) (o : Nat) :
    (copyImage t d).selByte o = if t.selv = true ∧ o < t.area then t.selByte o else d.selByte o := by
  unfold Slot.selByte copyImage
  by_cases h : t.selv = true
  · simp only [h, if_true, memGet_memFill, true_and]
    split <;> simp [Slot.selByte]
  · simp only [h, if_false, false_and, Bool.false_eq_true]

theorem palEntry_copyImage (t d : Slot) (i : Nat) :
    (copyImage t d).palEntry i = if i < 256 then t.palEntry i else d.palEntry i := by
  unfold Slot.palEntry copyImage
  simp only [memGet_memFill]
  split <;> simp [Slot.palEntry]

/-! ### The fresh images -/

theorem pixByte_freshGray8 (d : Slot) (w h : Nat) (f : Nat → Nat → Nat) (o : Nat) :
    (freshGray8 d w h f).pixByte o = if o < w * h then BitVec.ofNat 8 (f (o % w) (o / w)) else d.pixByte o := by
  unfold Slot.pixByte freshGray8
  simp only [memGet_memFill]
  split <;> simp

theorem palEntry_freshGray8 (d : Slot) (w h : Nat) (f : Nat → Nat → Nat) (i : Nat) :
    (freshGray8 d w h f).palEntry i = if i < 256 then grayColor i else d.palEntry i := by
  unfold Slot.palEntry freshGray8
  simp only [memGet_memFill]
  split <;> simp

theorem pixByte_freshBw (d : Slot) (w h : Nat) (f : Nat → Nat → Bool) (o : Nat) :
    (freshBw d w h f).pixByte o = if o < w * h then (if f (o % w) (o / w) then 1 else 0) else d.pixByte o := by
  unfold Slot.pixByte freshBw
  simp only [memGet_memFill]
  split <;> simp

theorem palEntry_freshBw (d : Slot) (w h : Nat) (f : Nat → Nat → Bool) (i : Nat) :
    (freshBw d w h f).palEntry i =
      if i < 2 then (if i = 0 then ⟨0, 0, 0⟩ else ⟨255, 255, 255⟩) else d.palEntry i := by
  unfold Slot.palEntry freshBw
  simp only [memGet_memFill]
  split <;> simp

theorem pixByte_freshRgb24 (d : Slot) (w h : Nat) (f : Nat → Nat → Color) (o : Nat) :
    (freshRgb24 cfg d w h f).pixByte o =
      if o < min (w * h * 3) cfg.planeBytes then
        (if o % 3 = 0 then (f (o / 3 % w) (o / 3 / w)).r
          else if o % 3 = 1 then (f (o / 3 % w) (o / 3 / w)).g else (f (o / 3 % w) (o / 3 / w)).b)
      else d.pixByte o := by
  unfold Slot.pixByte freshRgb24
  simp only [memGet_memFill]
  split <;> simp

end Sys2Proof.Machine
end

