-- ==== Sys2Proof/Laws/State.lean ====
section
/-! SUPPORT. One lemma per field per update of the state, true by `rfl`. -/

namespace Sys2Proof.Machine

variable {cfg : Config}

/-! ### s.withSlot i t -/

@[simp] theorem State.withSlot_cancel (s : State cfg) (i : SlotNo cfg) (t : Slot) : (s.withSlot i t).cancel = s.cancel := rfl
@[simp] theorem State.withSlot_ie (s : State cfg) (i : SlotNo cfg) (t : Slot) : (s.withSlot i t).ie = s.ie := rfl
@[simp] theorem State.withSlot_done (s : State cfg) (i : SlotNo cfg) (t : Slot) : (s.withSlot i t).done = s.done := rfl
@[simp] theorem State.withSlot_cancelled (s : State cfg) (i : SlotNo cfg) (t : Slot) : (s.withSlot i t).cancelled = s.cancelled := rfl
@[simp] theorem State.withSlot_haz (s : State cfg) (i : SlotNo cfg) (t : Slot) : (s.withSlot i t).haz = s.haz := rfl
@[simp] theorem State.withSlot_err (s : State cfg) (i : SlotNo cfg) (t : Slot) : (s.withSlot i t).err = s.err := rfl
@[simp] theorem State.withSlot_progress (s : State cfg) (i : SlotNo cfg) (t : Slot) : (s.withSlot i t).progress = s.progress := rfl
@[simp] theorem State.withSlot_result (s : State cfg) (i : SlotNo cfg) (t : Slot) : (s.withSlot i t).result = s.result := rfl
@[simp] theorem State.withSlot_cmd (s : State cfg) (i : SlotNo cfg) (t : Slot) : (s.withSlot i t).cmd = s.cmd := rfl
@[simp] theorem State.withSlot_kram (s : State cfg) (i : SlotNo cfg) (t : Slot) : (s.withSlot i t).kram = s.kram := rfl
@[simp] theorem State.withSlot_kramGen (s : State cfg) (i : SlotNo cfg) (t : Slot) : (s.withSlot i t).kramGen = s.kramGen := rfl
@[simp] theorem State.withSlot_slots (s : State cfg) (i : SlotNo cfg) (t : Slot) : (s.withSlot i t).slots = s.slots.set i t := rfl
@[simp] theorem State.withSlot_job (s : State cfg) (i : SlotNo cfg) (t : Slot) : (s.withSlot i t).job = s.job := rfl
@[simp] theorem State.withSlot_host (s : State cfg) (i : SlotNo cfg) (t : Slot) : (s.withSlot i t).host = s.host := rfl
@[simp] theorem State.withSlot_replies (s : State cfg) (i : SlotNo cfg) (t : Slot) : (s.withSlot i t).replies = s.replies := rfl
@[simp] theorem State.withSlot_draws (s : State cfg) (i : SlotNo cfg) (t : Slot) : (s.withSlot i t).draws = s.draws := rfl

/-! ### s.complete code c -/

@[simp] theorem State.complete_cancel (s : State cfg) (code : ErrCode) (c : Bool) : (s.complete code c).cancel = s.cancel := rfl
@[simp] theorem State.complete_ie (s : State cfg) (code : ErrCode) (c : Bool) : (s.complete code c).ie = s.ie := rfl
@[simp] theorem State.complete_done (s : State cfg) (code : ErrCode) (c : Bool) : (s.complete code c).done = true := rfl
@[simp] theorem State.complete_cancelled (s : State cfg) (code : ErrCode) (c : Bool) : (s.complete code c).cancelled = c := rfl
@[simp] theorem State.complete_haz (s : State cfg) (code : ErrCode) (c : Bool) : (s.complete code c).haz = s.haz := rfl
@[simp] theorem State.complete_err (s : State cfg) (code : ErrCode) (c : Bool) : (s.complete code c).err = code := rfl
@[simp] theorem State.complete_progress (s : State cfg) (code : ErrCode) (c : Bool) : (s.complete code c).progress = if code = .ok ∧ c = false then 100 else s.progress := rfl
@[simp] theorem State.complete_result (s : State cfg) (code : ErrCode) (c : Bool) : (s.complete code c).result = s.result := rfl
@[simp] theorem State.complete_cmd (s : State cfg) (code : ErrCode) (c : Bool) : (s.complete code c).cmd = s.cmd := rfl
@[simp] theorem State.complete_kram (s : State cfg) (code : ErrCode) (c : Bool) : (s.complete code c).kram = s.kram := rfl
@[simp] theorem State.complete_kramGen (s : State cfg) (code : ErrCode) (c : Bool) : (s.complete code c).kramGen = s.kramGen := rfl
@[simp] theorem State.complete_slots (s : State cfg) (code : ErrCode) (c : Bool) : (s.complete code c).slots = s.slots := rfl
@[simp] theorem State.complete_job (s : State cfg) (code : ErrCode) (c : Bool) : (s.complete code c).job = none := rfl
@[simp] theorem State.complete_host (s : State cfg) (code : ErrCode) (c : Bool) : (s.complete code c).host = s.host := rfl
@[simp] theorem State.complete_replies (s : State cfg) (code : ErrCode) (c : Bool) : (s.complete code c).replies = s.replies := rfl
@[simp] theorem State.complete_draws (s : State cfg) (code : ErrCode) (c : Bool) : (s.complete code c).draws = s.draws := rfl

/-! ### s.acknowledge -/

@[simp] theorem State.acknowledge_cancel (s : State cfg) : (s.acknowledge).cancel = s.cancel := rfl
@[simp] theorem State.acknowledge_ie (s : State cfg) : (s.acknowledge).ie = s.ie := rfl
@[simp] theorem State.acknowledge_done (s : State cfg) : (s.acknowledge).done = false := rfl
@[simp] theorem State.acknowledge_cancelled (s : State cfg) : (s.acknowledge).cancelled = s.cancelled := rfl
@[simp] theorem State.acknowledge_haz (s : State cfg) : (s.acknowledge).haz = s.haz := rfl
@[simp] theorem State.acknowledge_err (s : State cfg) : (s.acknowledge).err = s.err := rfl
@[simp] theorem State.acknowledge_progress (s : State cfg) : (s.acknowledge).progress = s.progress := rfl
@[simp] theorem State.acknowledge_result (s : State cfg) : (s.acknowledge).result = s.result := rfl
@[simp] theorem State.acknowledge_cmd (s : State cfg) : (s.acknowledge).cmd = s.cmd := rfl
@[simp] theorem State.acknowledge_kram (s : State cfg) : (s.acknowledge).kram = s.kram := rfl
@[simp] theorem State.acknowledge_kramGen (s : State cfg) : (s.acknowledge).kramGen = s.kramGen := rfl
@[simp] theorem State.acknowledge_slots (s : State cfg) : (s.acknowledge).slots = s.slots := rfl
@[simp] theorem State.acknowledge_job (s : State cfg) : (s.acknowledge).job = s.job := rfl
@[simp] theorem State.acknowledge_host (s : State cfg) : (s.acknowledge).host = s.host := rfl
@[simp] theorem State.acknowledge_replies (s : State cfg) : (s.acknowledge).replies = s.replies := rfl
@[simp] theorem State.acknowledge_draws (s : State cfg) : (s.acknowledge).draws = s.draws := rfl

/-! ### s.fail code -/

@[simp] theorem State.fail_cancel (s : State cfg) (code : ErrCode) : (s.fail code).cancel = s.cancel := rfl
@[simp] theorem State.fail_ie (s : State cfg) (code : ErrCode) : (s.fail code).ie = s.ie := rfl
@[simp] theorem State.fail_done (s : State cfg) (code : ErrCode) : (s.fail code).done = true := rfl
@[simp] theorem State.fail_cancelled (s : State cfg) (code : ErrCode) : (s.fail code).cancelled = false := rfl
@[simp] theorem State.fail_haz (s : State cfg) (code : ErrCode) : (s.fail code).haz = s.haz := rfl
@[simp] theorem State.fail_err (s : State cfg) (code : ErrCode) : (s.fail code).err = code := rfl
@[simp] theorem State.fail_progress (s : State cfg) (code : ErrCode) : (s.fail code).progress = if code = .ok ∧ false = false then 100 else s.progress := rfl
@[simp] theorem State.fail_result (s : State cfg) (code : ErrCode) : (s.fail code).result = s.result := rfl
@[simp] theorem State.fail_cmd (s : State cfg) (code : ErrCode) : (s.fail code).cmd = s.cmd := rfl
@[simp] theorem State.fail_kram (s : State cfg) (code : ErrCode) : (s.fail code).kram = s.kram := rfl
@[simp] theorem State.fail_kramGen (s : State cfg) (code : ErrCode) : (s.fail code).kramGen = s.kramGen := rfl
@[simp] theorem State.fail_slots (s : State cfg) (code : ErrCode) : (s.fail code).slots = s.slots := rfl
@[simp] theorem State.fail_job (s : State cfg) (code : ErrCode) : (s.fail code).job = none := rfl
@[simp] theorem State.fail_host (s : State cfg) (code : ErrCode) : (s.fail code).host = s.host := rfl
@[simp] theorem State.fail_replies (s : State cfg) (code : ErrCode) : (s.fail code).replies = s.replies := rfl
@[simp] theorem State.fail_draws (s : State cfg) (code : ErrCode) : (s.fail code).draws = s.draws := rfl

/-! ### s.failThreshold code -/

@[simp] theorem State.failThreshold_cancel (s : State cfg) (code : ErrCode) : (s.failThreshold code).cancel = s.cancel := rfl
@[simp] theorem State.failThreshold_ie (s : State cfg) (code : ErrCode) : (s.failThreshold code).ie = s.ie := rfl
@[simp] theorem State.failThreshold_done (s : State cfg) (code : ErrCode) : (s.failThreshold code).done = true := rfl
@[simp] theorem State.failThreshold_cancelled (s : State cfg) (code : ErrCode) : (s.failThreshold code).cancelled = false := rfl
@[simp] theorem State.failThreshold_haz (s : State cfg) (code : ErrCode) : (s.failThreshold code).haz = s.haz := rfl
@[simp] theorem State.failThreshold_err (s : State cfg) (code : ErrCode) : (s.failThreshold code).err = code := rfl
@[simp] theorem State.failThreshold_progress (s : State cfg) (code : ErrCode) : (s.failThreshold code).progress = if code = .ok ∧ false = false then 100 else s.progress := rfl
@[simp] theorem State.failThreshold_result (s : State cfg) (code : ErrCode) : (s.failThreshold code).result = minusOne := rfl
@[simp] theorem State.failThreshold_cmd (s : State cfg) (code : ErrCode) : (s.failThreshold code).cmd = s.cmd := rfl
@[simp] theorem State.failThreshold_kram (s : State cfg) (code : ErrCode) : (s.failThreshold code).kram = s.kram := rfl
@[simp] theorem State.failThreshold_kramGen (s : State cfg) (code : ErrCode) : (s.failThreshold code).kramGen = s.kramGen := rfl
@[simp] theorem State.failThreshold_slots (s : State cfg) (code : ErrCode) : (s.failThreshold code).slots = s.slots := rfl
@[simp] theorem State.failThreshold_job (s : State cfg) (code : ErrCode) : (s.failThreshold code).job = none := rfl
@[simp] theorem State.failThreshold_host (s : State cfg) (code : ErrCode) : (s.failThreshold code).host = s.host := rfl
@[simp] theorem State.failThreshold_replies (s : State cfg) (code : ErrCode) : (s.failThreshold code).replies = s.replies := rfl
@[simp] theorem State.failThreshold_draws (s : State cfg) (code : ErrCode) : (s.failThreshold code).draws = s.draws := rfl

/-! ### s.pause q n e -/

@[simp] theorem State.pause_cancel (s : State cfg) (q n e : Nat) : (s.pause q n e).cancel = s.cancel := rfl
@[simp] theorem State.pause_ie (s : State cfg) (q n e : Nat) : (s.pause q n e).ie = s.ie := rfl
@[simp] theorem State.pause_done (s : State cfg) (q n e : Nat) : (s.pause q n e).done = s.done := rfl
@[simp] theorem State.pause_cancelled (s : State cfg) (q n e : Nat) : (s.pause q n e).cancelled = s.cancelled := rfl
@[simp] theorem State.pause_haz (s : State cfg) (q n e : Nat) : (s.pause q n e).haz = s.haz := rfl
@[simp] theorem State.pause_err (s : State cfg) (q n e : Nat) : (s.pause q n e).err = s.err := rfl
@[simp] theorem State.pause_progress (s : State cfg) (q n e : Nat) : (s.pause q n e).progress = s.progressAt n q := rfl
@[simp] theorem State.pause_result (s : State cfg) (q n e : Nat) : (s.pause q n e).result = s.result := rfl
@[simp] theorem State.pause_cmd (s : State cfg) (q n e : Nat) : (s.pause q n e).cmd = s.cmd := rfl
@[simp] theorem State.pause_kram (s : State cfg) (q n e : Nat) : (s.pause q n e).kram = s.kram := rfl
@[simp] theorem State.pause_kramGen (s : State cfg) (q n e : Nat) : (s.pause q n e).kramGen = s.kramGen := rfl
@[simp] theorem State.pause_slots (s : State cfg) (q n e : Nat) : (s.pause q n e).slots = s.slots := rfl
@[simp] theorem State.pause_replies (s : State cfg) (q n e : Nat) : (s.pause q n e).replies = s.replies := rfl
@[simp] theorem State.pause_draws (s : State cfg) (q n e : Nat) : (s.pause q n e).draws = s.draws := rfl

/-! ### s.accept -/

@[simp] theorem State.accept_cancel (s : State cfg) : (s.accept).cancel = s.cancel := rfl
@[simp] theorem State.accept_ie (s : State cfg) : (s.accept).ie = s.ie := rfl
@[simp] theorem State.accept_done (s : State cfg) : (s.accept).done = false := rfl
@[simp] theorem State.accept_cancelled (s : State cfg) : (s.accept).cancelled = false := rfl
@[simp] theorem State.accept_haz (s : State cfg) : (s.accept).haz = s.haz := rfl
@[simp] theorem State.accept_err (s : State cfg) : (s.accept).err = .ok := rfl
@[simp] theorem State.accept_progress (s : State cfg) : (s.accept).progress = 0 := rfl
@[simp] theorem State.accept_result (s : State cfg) : (s.accept).result = s.result := rfl
@[simp] theorem State.accept_cmd (s : State cfg) : (s.accept).cmd = s.cmd := rfl
@[simp] theorem State.accept_kram (s : State cfg) : (s.accept).kram = s.kram := rfl
@[simp] theorem State.accept_kramGen (s : State cfg) : (s.accept).kramGen = s.kramGen := rfl
@[simp] theorem State.accept_slots (s : State cfg) : (s.accept).slots = s.slots := rfl
@[simp] theorem State.accept_job (s : State cfg) : (s.accept).job = some ⟨s.cmd, 0, .toPoll⟩ := rfl
@[simp] theorem State.accept_host (s : State cfg) : (s.accept).host = s.host := rfl
@[simp] theorem State.accept_replies (s : State cfg) : (s.accept).replies = s.replies := rfl
@[simp] theorem State.accept_draws (s : State cfg) : (s.accept).draws = s.draws := rfl

/-! ### s.softReset -/

@[simp] theorem State.softReset_cancel (s : State cfg) : (s.softReset).cancel = false := rfl
@[simp] theorem State.softReset_ie (s : State cfg) : (s.softReset).ie = false := rfl
@[simp] theorem State.softReset_done (s : State cfg) : (s.softReset).done = false := rfl
@[simp] theorem State.softReset_cancelled (s : State cfg) : (s.softReset).cancelled = false := rfl
@[simp] theorem State.softReset_haz (s : State cfg) : (s.softReset).haz = false := rfl
@[simp] theorem State.softReset_err (s : State cfg) : (s.softReset).err = .ok := rfl
@[simp] theorem State.softReset_progress (s : State cfg) : (s.softReset).progress = 0 := rfl
@[simp] theorem State.softReset_result (s : State cfg) : (s.softReset).result = 0 := rfl
@[simp] theorem State.softReset_cmd (s : State cfg) : (s.softReset).cmd = zeroBlock := rfl
@[simp] theorem State.softReset_slots (s : State cfg) : (s.softReset).slots = s.abort.slots := rfl
@[simp] theorem State.softReset_job (s : State cfg) : (s.softReset).job = none := rfl
@[simp] theorem State.softReset_draws (s : State cfg) : (s.softReset).draws = s.abort.draws := rfl

/-! ### s.powerOn -/

@[simp] theorem State.powerOn_cancel (s : State cfg) : (s.powerOn).cancel = false := rfl
@[simp] theorem State.powerOn_ie (s : State cfg) : (s.powerOn).ie = false := rfl
@[simp] theorem State.powerOn_done (s : State cfg) : (s.powerOn).done = false := rfl
@[simp] theorem State.powerOn_cancelled (s : State cfg) : (s.powerOn).cancelled = false := rfl
@[simp] theorem State.powerOn_haz (s : State cfg) : (s.powerOn).haz = false := rfl
@[simp] theorem State.powerOn_err (s : State cfg) : (s.powerOn).err = .ok := rfl
@[simp] theorem State.powerOn_progress (s : State cfg) : (s.powerOn).progress = 0 := rfl
@[simp] theorem State.powerOn_result (s : State cfg) : (s.powerOn).result = 0 := rfl
@[simp] theorem State.powerOn_cmd (s : State cfg) : (s.powerOn).cmd = zeroBlock := rfl
@[simp] theorem State.powerOn_kram (s : State cfg) : (s.powerOn).kram = [] := rfl
@[simp] theorem State.powerOn_kramGen (s : State cfg) : (s.powerOn).kramGen = s.draws + cfg.nslot := rfl
@[simp] theorem State.powerOn_job (s : State cfg) : (s.powerOn).job = none := rfl
@[simp] theorem State.powerOn_host (s : State cfg) : (s.powerOn).host = s.host := rfl
@[simp] theorem State.powerOn_replies (s : State cfg) : (s.powerOn).replies = s.replies := rfl
@[simp] theorem State.powerOn_draws (s : State cfg) : (s.powerOn).draws = s.draws + cfg.nslot + 1 := rfl

/-! ### s.scramble i -/

@[simp] theorem State.scramble_cancel (s : State cfg) (i : SlotNo cfg) : (s.scramble i).cancel = s.cancel := rfl
@[simp] theorem State.scramble_ie (s : State cfg) (i : SlotNo cfg) : (s.scramble i).ie = s.ie := rfl
@[simp] theorem State.scramble_done (s : State cfg) (i : SlotNo cfg) : (s.scramble i).done = s.done := rfl
@[simp] theorem State.scramble_cancelled (s : State cfg) (i : SlotNo cfg) : (s.scramble i).cancelled = s.cancelled := rfl
@[simp] theorem State.scramble_haz (s : State cfg) (i : SlotNo cfg) : (s.scramble i).haz = s.haz := rfl
@[simp] theorem State.scramble_err (s : State cfg) (i : SlotNo cfg) : (s.scramble i).err = s.err := rfl
@[simp] theorem State.scramble_progress (s : State cfg) (i : SlotNo cfg) : (s.scramble i).progress = s.progress := rfl
@[simp] theorem State.scramble_result (s : State cfg) (i : SlotNo cfg) : (s.scramble i).result = s.result := rfl
@[simp] theorem State.scramble_cmd (s : State cfg) (i : SlotNo cfg) : (s.scramble i).cmd = s.cmd := rfl
@[simp] theorem State.scramble_kram (s : State cfg) (i : SlotNo cfg) : (s.scramble i).kram = s.kram := rfl
@[simp] theorem State.scramble_kramGen (s : State cfg) (i : SlotNo cfg) : (s.scramble i).kramGen = s.kramGen := rfl
@[simp] theorem State.scramble_slots (s : State cfg) (i : SlotNo cfg) : (s.scramble i).slots = s.slots.set i (unspecSlot s.draws) := rfl
@[simp] theorem State.scramble_job (s : State cfg) (i : SlotNo cfg) : (s.scramble i).job = s.job := rfl
@[simp] theorem State.scramble_host (s : State cfg) (i : SlotNo cfg) : (s.scramble i).host = s.host := rfl
@[simp] theorem State.scramble_replies (s : State cfg) (i : SlotNo cfg) : (s.scramble i).replies = s.replies := rfl
@[simp] theorem State.scramble_draws (s : State cfg) (i : SlotNo cfg) : (s.scramble i).draws = s.draws + 1 := rfl

/-! ### s.started c -/

@[simp] theorem State.started_cancel (s : State cfg) (c : CmdBlock) : (s.started c).cancel = s.cancel := rfl
@[simp] theorem State.started_ie (s : State cfg) (c : CmdBlock) : (s.started c).ie = s.ie := rfl
@[simp] theorem State.started_done (s : State cfg) (c : CmdBlock) : (s.started c).done = false := rfl
@[simp] theorem State.started_cancelled (s : State cfg) (c : CmdBlock) : (s.started c).cancelled = false := rfl
@[simp] theorem State.started_haz (s : State cfg) (c : CmdBlock) : (s.started c).haz = s.haz := rfl
@[simp] theorem State.started_err (s : State cfg) (c : CmdBlock) : (s.started c).err = .ok := rfl
@[simp] theorem State.started_progress (s : State cfg) (c : CmdBlock) : (s.started c).progress = 0 := rfl
@[simp] theorem State.started_result (s : State cfg) (c : CmdBlock) : (s.started c).result = s.result := rfl
@[simp] theorem State.started_cmd (s : State cfg) (c : CmdBlock) : (s.started c).cmd = c := rfl
@[simp] theorem State.started_kram (s : State cfg) (c : CmdBlock) : (s.started c).kram = s.kram := rfl
@[simp] theorem State.started_kramGen (s : State cfg) (c : CmdBlock) : (s.started c).kramGen = s.kramGen := rfl
@[simp] theorem State.started_slots (s : State cfg) (c : CmdBlock) : (s.started c).slots = s.slots := rfl
@[simp] theorem State.started_job (s : State cfg) (c : CmdBlock) : (s.started c).job = some ⟨c, 0, .toPoll⟩ := rfl
@[simp] theorem State.started_host (s : State cfg) (c : CmdBlock) : (s.started c).host = [] := rfl
@[simp] theorem State.started_replies (s : State cfg) (c : CmdBlock) : (s.started c).replies = s.replies := rfl
@[simp] theorem State.started_draws (s : State cfg) (c : CmdBlock) : (s.started c).draws = s.draws := rfl

/-! ### Slots -/

@[simp] theorem State.slot_withSlot_same (s : State cfg) (i : SlotNo cfg) (t : Slot) :
    (s.withSlot i t).slot i = t := by simp [State.slot, State.withSlot]

theorem State.slot_withSlot_other (s : State cfg) {i j : SlotNo cfg} (h : j ≠ i) (t : Slot) :
    (s.withSlot i t).slot j = s.slot j := by
  have : (i : Nat) ≠ j := fun e => h (Fin.ext e.symm)
  simp [State.slot, State.withSlot, this]

@[simp] theorem State.slot_complete (s : State cfg) (code : ErrCode) (c : Bool) (i : SlotNo cfg) :
    (s.complete code c).slot i = s.slot i := rfl

@[simp] theorem State.slot_failThreshold (s : State cfg) (code : ErrCode) (i : SlotNo cfg) :
    (s.failThreshold code).slot i = s.slot i := rfl

@[simp] theorem State.slot_resetOf (i : SlotNo cfg) : (State.resetOf cfg).slot i = Slot.blank i.val := by
  simp [State.slot, State.resetOf, blankSlots]

@[simp] theorem State.slot_powerOn (s : State cfg) (i : SlotNo cfg) :
    s.powerOn.slot i = Slot.blank (s.draws + i.val) := by
  simp [State.slot, State.powerOn, blankSlots]

/-- Two states with the same slots have the same slot everywhere. -/
theorem State.slot_congr {s t : State cfg} (h : t.slots = s.slots) (i : SlotNo cfg) : t.slot i = s.slot i := by
  simp [State.slot, h]

/-- The slots are determined by the single slots. -/
theorem State.slots_ext {s t : State cfg} (h : ∀ i, t.slot i = s.slot i) : t.slots = s.slots := by
  apply Vector.ext
  intro i hi
  exact h ⟨i, hi⟩

end Sys2Proof.Machine
end

