-- ==== Sys2Proof/Laws/Ops.lean ====
section
/-! SUPPORT. What each shared operation can do, said once: the engine's turn of a body, the checks of a same-format
command, the turns of a step. -/

namespace Sys2Proof.Machine

variable {cfg : Config}

/-! ### `runBody` -/

theorem firstFailure_some {fails : Nat → Bool} {k stop j : Nat} (h : firstFailure fails k stop = some j) :
    k ≤ j ∧ j < stop ∧ fails j = true := by
  unfold firstFailure at h
  have h1 := List.find?_some h
  have h2 := List.mem_of_find?_eq_some h
  simp only [List.mem_range'_1] at h2
  exact ⟨h2.1, by omega, h1⟩

theorem firstFailure_none {fails : Nat → Bool} {k stop : Nat} (h : firstFailure fails k stop = none) {j : Nat}
    (h1 : k ≤ j) (h2 : j < stop) : fails j = false := by
  unfold firstFailure at h
  rw [List.find?_eq_none] at h
  have := h j (by simp only [List.mem_range'_1]; omega)
  simpa using this

theorem endUnit_le (s : State cfg) (n : Nat) : s.endUnit n ≤ n := by
  unfold State.endUnit
  split
  · exact Nat.min_le_right _ _
  · exact Nat.le_refl _

/-- What each ending of a body says of its units. -/
theorem ending_cases (b : Body cfg) (s : State cfg) :
    (∃ j, b.ending s = .failed j ∧ s.unitsDone ≤ j ∧ j < s.endUnit b.units ∧ b.fails j = true) ∨
    (b.ending s = .cancelled (s.endUnit b.units) ∧ s.endUnit b.units < b.units ∧
      ∀ j, s.unitsDone ≤ j → j < s.endUnit b.units → b.fails j = false) ∨
    (b.ending s = .completed ∧ s.endUnit b.units = b.units ∧
      ∀ j, s.unitsDone ≤ j → j < b.units → b.fails j = false) := by
  unfold Body.ending
  cases hf : firstFailure b.fails s.unitsDone (s.endUnit b.units) with
  | some j => left; exact ⟨j, rfl, firstFailure_some hf⟩
  | none =>
    right
    have h : ∀ j, s.unitsDone ≤ j → j < s.endUnit b.units → b.fails j = false := fun j => firstFailure_none hf
    by_cases hc : s.endUnit b.units < b.units
    · left; exact ⟨by simp [hc], hc, h⟩
    · have hu : s.endUnit b.units = b.units := by have := endUnit_le s b.units; omega
      right; exact ⟨by simp [hc], hu, hu ▸ h⟩

/-- A body ends no later than at the completion of its last unit. -/
theorem ending_position_le (b : Body cfg) (s : State cfg) : (b.ending s).position b.units ≤ 3 * b.units := by
  have he := endUnit_le s b.units
  rcases ending_cases b s with ⟨j, h, _, h2, _⟩ | ⟨h, h1, _⟩ | ⟨h, _⟩ <;> rw [h] <;> simp only [Ending.position] <;> omega

/-- Everything the engine's turn of a body can do: conclude it, or pause where the host acts next. -/
theorem runBody_cases (b : Body cfg) (s : State cfg) :
    ((∀ q, s.nextStop = some q → (b.ending s).position b.units < q) ∧ runBody b s = b.conclude s (b.ending s)) ∨
    (∃ q, s.nextStop = some q ∧ q ≤ (b.ending s).position b.units ∧
      runBody b s = s.pause q b.units (s.endUnit b.units)) := by
  unfold runBody
  cases s.nextStop with
  | none => left; exact ⟨fun q h => (Option.some_ne_none q h.symm).elim, rfl⟩
  | some p =>
    by_cases h : p ≤ (b.ending s).position b.units
    · right; exact ⟨p, rfl, h, by simp [h]⟩
    · left; exact ⟨fun q hq => by cases hq; omega, by simp [h]⟩

/-- With no host event in the way a body is concluded. -/
theorem runBody_concludes {b : Body cfg} {s : State cfg} (hq : ∀ q, s.nextStop = some q → 3 * b.units < q) :
    runBody b s = b.conclude s (b.ending s) := by
  rcases runBody_cases b s with ⟨_, h⟩ | ⟨q, h1, h2, _⟩
  · exact h
  · have := hq q h1; have := ending_position_le b s; omega

/-- Where moreover no poll stops it and no unit fails, it completes. -/
theorem runBody_completes {b : Body cfg} {s : State cfg} (he : s.endUnit b.units = b.units)
    (hq : ∀ q, s.nextStop = some q → 3 * b.units < q)
    (hf : ∀ j, s.unitsDone ≤ j → j < b.units → b.fails j = false) :
    runBody b s = (b.finished s).complete .ok false := by
  rw [runBody_concludes hq]
  rcases ending_cases b s with ⟨j, _, h1, h2, h3⟩ | ⟨_, h, _⟩ | ⟨h, _⟩
  · simp [hf j h1 (he ▸ h2)] at h3
  · omega
  · rw [h]; rfl

/-- A body without poll points completes whatever CANCEL is. -/
theorem runBody_wholeBody {f : State cfg → State cfg} {s : State cfg} (hq : ∀ q, s.nextStop = some q → 0 < q) :
    runBody (wholeBody f) s = (f s).complete .ok false :=
  runBody_completes (by have := endUnit_le s 0; simp only [wholeBody]; omega) hq
    fun _ _ h => absurd h (Nat.not_lt_zero _)

/-- Where a poll reads, or has read, CANCEL = 1 and no unit fails before it, a body ends there. -/
theorem runBody_cancels {b : Body cfg} {s : State cfg} (he : s.endUnit b.units < b.units)
    (hq : ∀ q, s.nextStop = some q → 3 * b.units < q)
    (hf : ∀ j, s.unitsDone ≤ j → j < s.endUnit b.units → b.fails j = false) :
    runBody b s = (b.stopped (s.endUnit b.units)
      { s with progress := s.progressAt b.units (3 * s.endUnit b.units + 2) }).complete .ok true := by
  rw [runBody_concludes hq]
  rcases ending_cases b s with ⟨j, _, h1, h2, h3⟩ | ⟨h, _⟩ | ⟨_, h, _⟩
  · simp [hf j h1 h2] at h3
  · rw [h]; rfl
  · omega

/-- A command that pauses at position `q` stands there. -/
theorem position_pause {s : State cfg} (hb : s.busy = true) (q n e : Nat) : (s.pause q n e).position = q := by
  obtain ⟨j, hj⟩ := Option.isSome_iff_exists.mp hb
  simp only [State.position, State.unitsDone, State.phase, State.pause, hj, Option.map_some]
  split
  · simp only [Phase.steps]; omega
  · split
    · simp only [Phase.steps]; omega
    · split <;> simp only [Phase.steps] <;> omega

/-! ### The checks of a same-format command -/

/-- A slot number below NSLOT names its slot. -/
@[simp] theorem slotRef_val (i : SlotNo cfg) : slotRef cfg i.val = some i := by simp [slotRef]

/-- The slot that a slot number names has that number. -/
theorem slotRef_some {n : Nat} {i : SlotNo cfg} (h : slotRef cfg n = some i) : n = i.val := by
  unfold slotRef at h
  split at h
  · cases h; rfl
  · cases h

/-- What a slot number accepted as a source means. -/
theorem validSlot_ok {s : State cfg} {n : Nat} {a : SlotNo cfg} (h : s.validSlot n = .ok a) :
    n = a.val ∧ (s.slot a).valid cfg = true := by
  unfold State.validSlot at h
  split at h
  · cases h
  · next i hi =>
    split at h
    · next hv => cases h; exact ⟨slotRef_some hi, hv⟩
    · cases h

/-- What a required source accepted means. -/
theorem source_ok {s : State cfg} {sa : SlotArg} {a : SlotNo cfg} (h : s.source sa = .ok a) :
    sa = .slot a.val ∧ (s.slot a).valid cfg = true := by
  cases sa with
  | null => cases h
  | slot n => obtain ⟨rfl, hv⟩ := validSlot_ok h; exact ⟨rfl, hv⟩

/-- What a same-format command's checks passing means. -/
theorem sameFormat_ok {s : State cfg} {sa sb : SlotArg} {params : Bool} {a d : SlotNo cfg}
    (h : s.sameFormat sa sb params = .ok (a, d)) :
    sa = .slot a.val ∧ dest a sb = .ok d ∧ (s.slot a).valid cfg = true ∧ (s.slot a).laned = true ∧ params = true := by
  unfold State.sameFormat at h
  split at h
  · cases h
  · next a' ha =>
    split at h
    · cases h
    · next d' hd =>
      by_cases h1 : (s.slot a').laned = true
      · by_cases h2 : params = true
        · simp only [h1, h2, if_true, Except.ok.injEq, Prod.mk.injEq] at h
          obtain ⟨rfl, rfl⟩ := h
          exact ⟨(source_ok ha).1, hd, (source_ok ha).2, h1, h2⟩
        · simp [h1, h2] at h
      · simp [h1] at h

/-- The checks pass when each of them does. -/
theorem sameFormat_of {s : State cfg} {sb : SlotArg} {params : Bool} {a d : SlotNo cfg}
    (hd : dest a sb = .ok d) (hv : (s.slot a).valid cfg = true) (hl : (s.slot a).laned = true) (hp : params = true) :
    s.sameFormat (.slot a.val) sb params = .ok (a, d) := by
  simp [State.sameFormat, State.source, State.validSlot, hv, hd, hl, hp]

/-- Everything a row command can do. -/
theorem rowCommand_cases (s : State cfg) (sa sb : SlotArg) (params : Bool) (out : Slot → Nat → Nat → Nat → Nat) :
    (∃ e, s.sameFormat sa sb params = .error e ∧ rowCommand s sa sb params out = .next (s.fail e)) ∨
    (∃ a d, s.sameFormat sa sb params = .ok (a, d) ∧ rowCommand s sa sb params out =
      .next (runBody (sameFormatBody a d (s.slot a).scanBox.rows (s.slot a).rowScope (out (s.slot a))) s)) := by
  unfold rowCommand
  cases h : s.sameFormat sa sb params with
  | error e => left; exact ⟨e, rfl, rfl⟩
  | ok p => right; exact ⟨p.1, p.2, rfl, rfl⟩

/-! ### Turns and steps -/

/-- Whose turn it is, and what that says of the state. -/
theorem turn_cases (s : State cfg) :
    (s.turn = .idle ∧ s.host = [] ∧ s.job = none) ∨
    (∃ e r, s.turn = .host e r ∧ s.host = e :: r ∧ (s.job = none ∨ e.wait = 0)) ∨
    (∃ j, s.turn = .engine j ∧ s.job = some j ∧ ∀ e ∈ s.host.head?, 0 < e.wait) := by
  unfold State.turn
  cases hh : s.host with
  | nil =>
    cases hj : s.job with
    | none => left; simp
    | some j => right; right; exact ⟨j, rfl, rfl, by simp⟩
  | cons e r =>
    right
    cases hj : s.job with
    | none => left; exact ⟨e, r, rfl, rfl, Or.inl rfl⟩
    | some j =>
      by_cases h : e.wait = 0
      · left; exact ⟨e, r, by simp [h], rfl, Or.inr h⟩
      · right; exact ⟨j, by simp [h], rfl, by simp; omega⟩

/-- Everything one step of a machine can be. -/
theorem stepBy_cases (run : Instr → State cfg → Host.Outcome (State cfg) Fault Refusal) (s : State cfg) :
    (s.turn = .idle ∧ stepBy run s = .next s) ∨
    (∃ e r, s.turn = .host e r ∧ stepBy run s = .next (s.hostTurn e r)) ∨
    (∃ j i, s.turn = .engine j ∧ decode j.cmd = .ok i ∧ stepBy run s = run i s) ∨
    (∃ j e, s.turn = .engine j ∧ decode j.cmd = .error e ∧ stepBy run s = .next (s.illegalCommand j.cmd)) := by
  unfold stepBy
  cases ht : s.turn with
  | idle => left; exact ⟨rfl, rfl⟩
  | host e r => right; left; exact ⟨e, r, rfl, rfl⟩
  | engine j =>
    right; right
    cases hd : decode j.cmd with
    | ok i => left; exact ⟨j, i, rfl, hd, by simp [hd]⟩
    | error e => right; exact ⟨j, e, rfl, hd, by simp [hd]⟩

/-- Everything one step can be. -/
theorem step_cases (s : State) :
    (s.turn = .idle ∧ step s = .next s) ∨
    (∃ e r, s.turn = .host e r ∧ step s = .next (s.hostTurn e r)) ∨
    (∃ j i, s.turn = .engine j ∧ decode j.cmd = .ok i ∧ step s = exec i s) ∨
    (∃ j e, s.turn = .engine j ∧ decode j.cmd = .error e ∧ step s = .next (s.illegalCommand j.cmd)) :=
  stepBy_cases exec s

end Sys2Proof.Machine
end

