-- ==== Sys2Proof/Laws/PerInstr.lean ====
section
/-! SUPPORT. Laws stated of every instruction, proved constructor by constructor. -/

namespace Sys2Proof

/-- CMD0[7:0] of a word put together from its fields (30_encoding.md R86). -/
theorem cmdFields_cmdWord_opc (opc : Byte) (sa sb sc sd : BitVec 4) (flg : Byte) :
    (cmdFields (cmdWord opc sa sb sc sd flg)).opc = opc := by
  unfold cmdFields cmdWord
  ext i hi
  simp only [BitVec.getElem_extractLsb', BitVec.getLsbD_append]
  simp [BitVec.getLsbD_eq_getElem hi]
  intro h; omega

/-- The opcode of a command (30_encoding.md R101). -/
def Laws.opcode : Instr → Byte
  | .filter _ _ _ _ _ => 0x01#8
  | .erode _ _ _ => 0x02#8
  | .dilate _ _ _ => 0x03#8
  | .edge _ _ _ => 0x04#8
  | .contour _ _ => 0x05#8
  | .gaussblur _ _ _ => 0x06#8
  | .unsharp _ _ _ _ _ => 0x07#8
  | .selblur _ _ _ _ => 0x08#8
  | .median _ _ _ => 0x09#8
  | .fft2 _ _ _ _ _ _ _ => 0x10#8
  | .optthresh _ _ _ _ => 0x18#8
  | .adaptthresh _ _ _ _ _ _ _ => 0x19#8
  | .threshmask _ _ _ => 0x1A#8
  | .floodfill _ _ _ _ _ _ _ _ _ => 0x20#8
  | .trace _ _ _ _ => 0x21#8

namespace Laws.OpcodeByte

/-- The encoded command holds its opcode in CMD0[7:0], and CMD5..CMD7, which no format uses, are 0 (R101, R107). -/
def Statement (i : Instr) : Prop :=
  (cmdFields (encode i).w0).opc = Laws.opcode i ∧ (encode i).w5 = 0#32 ∧ (encode i).w6 = 0#32 ∧ (encode i).w7 = 0#32

theorem filter (sa : SlotArg) (sb : SlotArg) (k : Byte) (factor : Word) (bias : Word) :
    Statement (.filter sa sb k factor bias) := ⟨cmdFields_cmdWord_opc _ _ _ _ _ _, rfl, rfl, rfl⟩

theorem erode (sa : SlotArg) (sb : SlotArg) (k : Byte) :
    Statement (.erode sa sb k) := ⟨cmdFields_cmdWord_opc _ _ _ _ _ _, rfl, rfl, rfl⟩

theorem dilate (sa : SlotArg) (sb : SlotArg) (k : Byte) :
    Statement (.dilate sa sb k) := ⟨cmdFields_cmdWord_opc _ _ _ _ _ _, rfl, rfl, rfl⟩

theorem edge (sa : SlotArg) (sb : SlotArg) (k : Byte) :
    Statement (.edge sa sb k) := ⟨cmdFields_cmdWord_opc _ _ _ _ _ _, rfl, rfl, rfl⟩

theorem contour (sa : SlotArg) (sb : SlotArg) :
    Statement (.contour sa sb) := ⟨cmdFields_cmdWord_opc _ _ _ _ _ _, rfl, rfl, rfl⟩

theorem gaussblur (sa : SlotArg) (sb : SlotArg) (radius : Word) :
    Statement (.gaussblur sa sb radius) := ⟨cmdFields_cmdWord_opc _ _ _ _ _ _, rfl, rfl, rfl⟩

theorem unsharp (sa : SlotArg) (sb : SlotArg) (radius : Word) (amount : Word) (threshold : Word) :
    Statement (.unsharp sa sb radius amount threshold) := ⟨cmdFields_cmdWord_opc _ _ _ _ _ _, rfl, rfl, rfl⟩

theorem selblur (sa : SlotArg) (sb : SlotArg) (radius : Word) (threshold : Byte) :
    Statement (.selblur sa sb radius threshold) := ⟨cmdFields_cmdWord_opc _ _ _ _ _ _, rfl, rfl, rfl⟩

theorem median (sa : SlotArg) (sb : SlotArg) (k : Byte) :
    Statement (.median sa sb k) := ⟨cmdFields_cmdWord_opc _ _ _ _ _ _, rfl, rfl, rfl⟩

theorem fft2 (sa : SlotArg) (sb : SlotArg) (sc : SlotArg) (sd : SlotArg) (inv : Bool) (pow2 : Bool) (mag : Bool) :
    Statement (.fft2 sa sb sc sd inv pow2 mag) := ⟨cmdFields_cmdWord_opc _ _ _ _ _ _, rfl, rfl, rfl⟩

theorem optthresh (sa : SlotArg) (sb : SlotArg) (method : BitVec 3) (box : Option BoxArg) :
    Statement (.optthresh sa sb method box) := by
  cases box <;> exact ⟨cmdFields_cmdWord_opc _ _ _ _ _ _, rfl, rfl, rfl⟩

theorem adaptthresh (sa : SlotArg) (sb : SlotArg) (sc : SlotArg) (method : BitVec 3) (boxSize : Word) (bias : Word) (balance : Word) :
    Statement (.adaptthresh sa sb sc method boxSize bias balance) := ⟨cmdFields_cmdWord_opc _ _ _ _ _ _, rfl, rfl, rfl⟩

theorem threshmask (sa : SlotArg) (sb : SlotArg) (sc : SlotArg) :
    Statement (.threshmask sa sb sc) := ⟨cmdFields_cmdWord_opc _ _ _ _ _ _, rfl, rfl, rfl⟩

theorem floodfill (sa : SlotArg) (track : Bool) (x0 : BitVec 16) (y0 : BitVec 16) (color : Color) (index : Byte) (tolerance : Byte) (opacity : Byte) (level : Byte) :
    Statement (.floodfill sa track x0 y0 color index tolerance opacity level) := ⟨cmdFields_cmdWord_opc _ _ _ _ _ _, rfl, rfl, rfl⟩

theorem trace (sa : SlotArg) (sb : SlotArg) (target : Color) (traceColor : Color) :
    Statement (.trace sa sb target traceColor) := ⟨cmdFields_cmdWord_opc _ _ _ _ _ _, rfl, rfl, rfl⟩

end Laws.OpcodeByte

end Sys2Proof
end

