-- ==== Sys2Proof/Laws/Slots.lean ====
section
/-! SUPPORT. What slot fields stand for: the model's functions on them and the terms of Safety say the same. -/

namespace Sys2Proof.Machine

/-- A slot field names slot `i` when it holds its number. -/
theorem argSlot_eq_some {f : SlotArg} {i : SlotNo} : argSlot .default f = some i ↔ f = .slot i := by
  cases f with
  | null => simp [argSlot]
  | slot n =>
    constructor
    · intro h; rw [slotRef_some (cfg := Config.default) h]
    · intro h; cases h; exact slotRef_val i

/-- The slot of a destination field. -/
theorem destArg_eq_some {d a : SlotArg} {i : SlotNo} : destArg .default d a = some i ↔ Target d a i := by
  unfold destArg Target
  rw [argSlot_eq_some]
  cases d <;> simp

/-- A destination field of a command with source slot `a`, accepted. -/
theorem dest_eq_ok {a d : SlotNo} {f : SlotArg} : dest a f = .ok d ↔ Target f (.slot a) d := by
  cases f with
  | null => simp [dest, destOpt, Target, Except.map, Fin.ext_iff]
  | slot n =>
    by_cases h : n < Config.default.nslot
    · simp [dest, destOpt, slotRef, h, Target, Except.map, Fin.ext_iff]
    · have : n ≠ d.val := by have := d.isLt; omega
      simp [dest, destOpt, slotRef, h, Target, Except.map, this]

/-- A destination field is refused exactly when it is BADSLOT. -/
theorem dest_eq_error {a : SlotNo} {f : SlotArg} {e : ErrCode} :
    dest a f = .error e ↔ IsBadSlot f ∧ e = .invalidBuffer := by
  cases f with
  | null => simp [dest, destOpt, IsBadSlot, Except.map]
  | slot n =>
    by_cases h : n < 8
    · have h' : n < Config.default.nslot := h
      simp [dest, destOpt, slotRef, h', IsBadSlot, Except.map]
    · have h' : ¬ n < Config.default.nslot := h
      have h8 : 8 ≤ n := by omega
      simp [dest, destOpt, slotRef, h', IsBadSlot, Except.map, h8, eq_comm]

/-- The slots that an abort loses are those the spec names command by command. -/
theorem mem_mayWrite {i : Instr} {d : SlotNo} : d ∈ mayWrite .default i ↔ MayWrite i d := by
  constructor
  · intro h
    cases i <;> simp only [mayWrite, List.mem_append, Option.mem_toList, List.not_mem_nil, destArg_eq_some] at h
    case filter => exact .filter h
    case erode => exact .erode h
    case dilate => exact .dilate h
    case edge => exact .edge h
    case contour => exact .contour h
    case gaussblur => exact .gaussblur h
    case unsharp => exact .unsharp h
    case selblur => exact .selblur h
    case median => exact .median h
    case fft2 => exact h.elim .fft2Real .fft2Imag
    case adaptthresh => exact .adaptthresh h
    case threshmask => exact .threshmask h
    case floodfill =>
      rcases h with h | ⟨_, rfl⟩
      · cases h
      · exact .floodfill
    case trace => exact .trace h
  · intro h
    cases h <;> simp only [mayWrite, List.mem_append, Option.mem_toList, destArg_eq_some]
    case fft2Real h => exact .inl h
    case fft2Imag h => exact .inr h
    case floodfill => exact .inr ⟨rfl, rfl⟩
    all_goals assumption

end Sys2Proof.Machine
end

