-- ==== Sys2Proof/Tests/Slice0.lean ====
section
/-! SUPPORT. Tests: ill-formed terms, decoding of words written out from the encoding tables, one-step results
taken from spec/95_test_vectors.md or computed by hand from the cited rules, and for every statement with
hypotheses a concrete state and operands that meet them. -/

namespace Sys2Proof.Tests

open Sys2Proof Sys2Proof.Machine

set_option Elab.async false

/-! ### Small states -/

/-- The cells of a list of byte values. -/
def bytes (l : List Nat) : List Host.Cell := l.zipIdx.map fun (v, i) => (i, BitVec.ofNat 8 v)

/-- An RGB24 image with the given bytes in slot order. -/
def rgb (w h : Nat) (px : List Nat) : Slot :=
  { Slot.blank 0 with w := BitVec.ofNat 16 w, h := BitVec.ofNat 16 h, depth := 3, pix := bytes px }

/-- An RGB24 image whose pixels have three equal lanes. -/
def flat (w h : Nat) (px : List Nat) : Slot := rgb w h (px.flatMap fun v => [v, v, v])

/-- A DEPTH 2 image with `n` palette entries, none of them written. -/
def idx (w h n : Nat) (px : List Nat) : Slot :=
  { Slot.blank 0 with
    w := BitVec.ofNat 16 w, h := BitVec.ofNat 16 h, depth := 2, paln := BitVec.ofNat 9 n, pix := bytes px }

/-- A GRAY8 image: DEPTH 2 with the identity ramp. -/
def gray (w h : Nat) (px : List Nat) : Slot :=
  { idx w h 256 px with pal := (List.range 256).map fun i => (i, grayColor i) }

/-- The reset state with an image in slot 0. -/
def with0 (t : Slot) : State := State.reset.withSlot 0 t

/-- The reset state with images in slots 0 and 1. -/
def with01 (t u : Slot) : State := (State.reset.withSlot 0 t).withSlot 1 u

/-- The state after a command. -/
def after (i : Instr) (s : State) : State :=
  match exec i s with
  | .next t => t
  | .fault _ => State.reset
  | .refused _ => State.reset

/-- The first `n` bytes of a slot's pixel plane. -/
def px (s : State) (i : SlotNo) (n : Nat) : List Nat :=
  (List.range n).map fun o => ((s.slot i).pixByte o).toNat

/-- A block of up to five words. -/
def blk (w0 : Nat) (w1 w2 w3 w4 : Nat := 0) : CmdBlock :=
  ⟨BitVec.ofNat 32 w0, BitVec.ofNat 32 w1, BitVec.ofNat 32 w2, BitVec.ofNat 32 w3, BitVec.ofNat 32 w4, 0, 0, 0⟩

/-- The 2×2 RGB24 image of V-MORPH-7. -/
def quad : Slot := rgb 2 2 [200, 10, 50, 10, 200, 60, 100, 100, 100, 50, 50, 250]

/-- A 1×2 RGB24 image: two rows, so two polls of a row command. -/
def tall : Slot := flat 1 2 [10, 20]

/-- A 2×1 RGB24 image: two columns, so two polls of a column command. -/
def wide : Slot := flat 2 1 [10, 20]

/-- A host that does nothing leaves every command quiet. -/
theorem quiet_of_noHost (s : State) (n : Nat) (h : s.host = []) : s.quiet n := by
  intro i hi
  simp [State.nextStop, h] at hi

/-! ### Well-formedness: an ill-formed term for each check -/

/-- Field value 15 is NULL, so it is no slot number. -/
def low : SlotArg := .slot 15

/-- No field holds 16. -/
def high : SlotArg := .slot 16

theorem test_wf_slot_numbers : low.wf = false ∧ high.wf = false ∧ (SlotArg.slot 14).wf = true ∧
    (SlotArg.slot 8).wf = true ∧ SlotArg.null.wf = true := by decide

theorem test_wf_window_commands :
    (Instr.filter low .null 3 9 0).wf = false ∧ (Instr.filter .null high 3 9 0).wf = false ∧
    (Instr.erode low .null 3).wf = false ∧ (Instr.erode .null high 3).wf = false ∧
    (Instr.dilate low .null 3).wf = false ∧ (Instr.dilate .null high 3).wf = false ∧
    (Instr.edge low .null 3).wf = false ∧ (Instr.edge .null high 3).wf = false ∧
    (Instr.contour low .null).wf = false ∧ (Instr.contour .null high).wf = false ∧
    (Instr.median low .null 3).wf = false ∧ (Instr.median .null high 3).wf = false := by decide

theorem test_wf_blur_commands :
    (Instr.gaussblur low .null 0).wf = false ∧ (Instr.gaussblur .null high 0).wf = false ∧
    (Instr.unsharp low .null 0 0 0).wf = false ∧ (Instr.unsharp .null high 0 0 0).wf = false ∧
    (Instr.selblur low .null 0 0).wf = false ∧ (Instr.selblur .null high 0 0).wf = false := by decide

theorem test_wf_fft2 :
    (Instr.fft2 low .null .null .null false false false).wf = false ∧
    (Instr.fft2 .null low .null .null false false false).wf = false ∧
    (Instr.fft2 .null .null high .null false false false).wf = false ∧
    (Instr.fft2 .null .null .null high false false false).wf = false := by decide

theorem test_wf_threshold_commands :
    (Instr.optthresh low .null 1 none).wf = false ∧ (Instr.optthresh .null high 1 none).wf = false ∧
    (Instr.adaptthresh low .null .null 1 8 0 0).wf = false ∧ (Instr.adaptthresh .null high .null 1 8 0 0).wf = false ∧
    (Instr.adaptthresh .null .null high 1 8 0 0).wf = false ∧ (Instr.threshmask low .null .null).wf = false ∧
    (Instr.threshmask .null high .null).wf = false ∧ (Instr.threshmask .null .null high).wf = false := by decide

theorem test_wf_region_commands :
    (Instr.floodfill high false 0 0 ⟨0, 0, 0⟩ 0 0 0 0).wf = false ∧
    (Instr.trace low .null ⟨0, 0, 0⟩ ⟨0, 0, 0⟩).wf = false ∧
    (Instr.trace .null high ⟨0, 0, 0⟩ ⟨0, 0, 0⟩).wf = false := by decide

/-! ### Decoding: the words of V-ENC, one for every command at least -/

/-- V-ENC-1 -/
theorem test_decode_filter : decode (blk 0x00FFF001 3 9 0) = .ok (.filter (.slot 0) .null 3 9 0) := by decide

/-- V-ENC-3 -/
theorem test_decode_erode : decode (blk 0x00FF1002 3) = .ok (.erode (.slot 0) (.slot 1) 3) := by decide

/-- V-ENC-4 -/
theorem test_decode_dilate : decode (blk 0x00FF1003 3) = .ok (.dilate (.slot 0) (.slot 1) 3) := by decide

/-- V-ENC-5 -/
theorem test_decode_edge : decode (blk 0x00FF1004 2) = .ok (.edge (.slot 0) (.slot 1) 2) := by decide

/-- V-ENC-6 -/
theorem test_decode_contour : decode (blk 0x00FF1005) = .ok (.contour (.slot 0) (.slot 1)) := by decide

/-- V-ENC-7 -/
theorem test_decode_gaussblur : decode (blk 0x00FFF206 0x3F800000) = .ok (.gaussblur (.slot 2) .null 0x3F800000) := by
  decide

/-- V-ENC-8 -/
theorem test_decode_unsharp : decode (blk 0x00FF1007 0x3F800000 0x3F000000 0) =
    .ok (.unsharp (.slot 0) (.slot 1) 0x3F800000 0x3F000000 0) := by decide

/-- V-ENC-9 -/
theorem test_decode_selblur : decode (blk 0x00FF1008 0x3F800000 0xA) =
    .ok (.selblur (.slot 0) (.slot 1) 0x3F800000 10) := by decide

/-- V-ENC-10 -/
theorem test_decode_median : decode (blk 0x00FF1009 3) = .ok (.median (.slot 0) (.slot 1) 3) := by decide

/-- V-ENC-2 and V-ENC-12 -/
theorem test_decode_fft2 :
    decode (blk 0x0532F110) = .ok (.fft2 (.slot 1) .null (.slot 2) (.slot 3) true false true) ∧
    decode (blk 0x01432110) = .ok (.fft2 (.slot 1) (.slot 2) (.slot 3) (.slot 4) true false false) := by decide

/-- V-ENC-13 and V-ENC-14 -/
theorem test_decode_optthresh :
    decode (blk 0x00FFF018 1) = .ok (.optthresh (.slot 0) .null 1 none) ∧
    decode (blk 0x01FFF018 1 0x00000002 0x00010002) = .ok (.optthresh (.slot 0) .null 1 (some ⟨2, 0, 2, 1⟩)) := by
  decide

/-- V-ENC-16 -/
theorem test_decode_adaptthresh : decode (blk 0x00F1F019 1 8 0xFFFFFFE2 0x3F000000) =
    .ok (.adaptthresh (.slot 0) .null (.slot 1) 1 8 0xFFFFFFE2 0x3F000000) := by decide

/-- V-ENC-17 -/
theorem test_decode_threshmask : decode (blk 0x00F2101A) = .ok (.threshmask (.slot 0) (.slot 1) (.slot 2)) := by decide

/-- V-ENC-18 and V-ENC-20 -/
theorem test_decode_floodfill :
    decode (blk 0x00FFF020 0 0xFF000000 0x00008002) =
      .ok (.floodfill (.slot 0) false 0 0 ⟨0, 0, 0⟩ 255 2 128 0) ∧
    decode (blk 0x00FFF020 0x00020001 0x00FF0000 0x00004003) =
      .ok (.floodfill (.slot 0) false 1 2 ⟨0, 0, 255⟩ 0 3 64 0) := by decide

/-- V-ENC-21 -/
theorem test_decode_trace : decode (blk 0x00FF3021 0x000A0A0A 0x000000FF) =
    .ok (.trace (.slot 0) (.slot 3) ⟨10, 10, 10⟩ ⟨255, 0, 0⟩) := by decide

/-- V-ERR-1 to V-ERR-4 and V-FFT-21: blocks that are no command. -/
theorem test_decode_refuses :
    decode (blk 0x00FFFF00) = .error .illegalOpcode ∧ decode (blk 0x00FF100A) = .error .illegalOpcode ∧
    decode (blk 0x00F01001) = .error .reservedSlotField ∧ decode (blk 0x01FF1001) = .error .reservedFlag ∧
    decode (blk 0x0821F010) = .error .reservedFlag := by decide

/-- A table word of CMD0 alone, and where the next step finds it. -/
theorem test_table_word : decodeTableWord 32 0x00F2101A = some (.threshmask (.slot 0) (.slot 1) (.slot 2)) ∧
    (State.reset.withFetchWord 32 0x00F2101A).job = some ⟨blk 0x00F2101A, 0, .toPoll⟩ := by decide

/-! ### One step of each command -/

/-- V-FILTER-11 in each lane, with the coefficient −1: −7 quot 2 + 10 = 7. -/
theorem test_filter_truncates :
    px (after (.filter (.slot 0) .null 1 2 10) { with0 (flat 1 1 [7]) with kram := [(0, 0xFFFF)] }) 0 3 = [7, 7, 7] := by
  decide +kernel

/-- V-FILTER-2 on one corner: the 2×2 image 10 20 / 40 50 under nine ones is 120·9 quot (4·9) = 30 everywhere. -/
theorem test_filter_renormalizes :
    px (after (.filter (.slot 0) (.slot 1) 3 9 0)
      { with0 (flat 2 2 [10, 20, 40, 50]) with kram := (List.range 9).map fun i => (i, 1) }) 1 12 =
      List.replicate 12 30 := by
  decide +kernel

/-- V-MORPH-7 -/
theorem test_erode_lanes : px (after (.erode (.slot 0) (.slot 1) 3) (with0 quad)) 1 12 =
    [10, 10, 50, 10, 10, 50, 10, 10, 50, 10, 10, 50] := by decide +kernel

/-- V-MORPH-11: K = 0. -/
theorem test_erode_side_zero : statusWord (after (.erode (.slot 0) (.slot 1) 0) (with0 quad)) = 0x00000402#32 := by
  decide +kernel

/-- V-MORPH-7 -/
theorem test_dilate_lanes : px (after (.dilate (.slot 0) (.slot 1) 3) (with0 quad)) 1 12 =
    [200, 200, 250, 200, 200, 250, 200, 200, 250, 200, 200, 250] := by decide +kernel

/-- A selection of the second pixel only (R121): an even window reaches left. -/
theorem test_dilate_selected :
    px (after (.dilate (.slot 0) .null 2)
      (with0 { flat 2 1 [9, 3] with selv := true, bx1 := 2, by1 := 1, sel := bytes [0, 1] })) 0 6 =
      [9, 9, 9, 9, 9, 9] := by decide +kernel

/-- V-EDGE-2's corner: with K = 2 the first pixel's window is itself, the second's is both. -/
theorem test_edge_even : px (after (.edge (.slot 0) (.slot 1) 2) (with0 (flat 2 1 [10, 200]))) 1 6 =
    [255, 255, 255, 65, 65, 65] := by decide +kernel

/-- V-CONTOUR-2 -/
theorem test_contour_lanes : px (after (.contour (.slot 0) (.slot 1)) (with0 quad)) 1 12 =
    [255, 65, 55, 65, 255, 65, 155, 155, 105, 105, 105, 255] := by decide +kernel

/-- V-MEDIAN-3 -/
theorem test_median_colour : px (after (.median (.slot 0) (.slot 1) 3) (with0 quad)) 1 12 =
    List.replicate 12 100 := by decide +kernel

/-- V-MEDIAN-2: a window of two takes the upper one. -/
theorem test_median_even : px (after (.median (.slot 0) (.slot 1) 2) (with0 (flat 2 1 [10, 200]))) 1 6 =
    [10, 10, 10, 200, 200, 200] := by decide +kernel

/-- V-GAUSS-8 in each lane. -/
theorem test_gaussblur_line : px (after (.gaussblur (.slot 0) .null 0x3F800000) (with0 (flat 2 1 [255, 0]))) 0 6 =
    [175, 175, 175, 80, 80, 80] := by decide +kernel

/-- V-GAUSS-12: a NaN radius. -/
theorem test_gaussblur_nan :
    statusWord (after (.gaussblur (.slot 0) .null 0x7FC00000) (with0 wide)) = 0x00000402#32 := by decide +kernel

/-- V-UNSHARP-3 on the line of V-GAUSS-8: amount −1 gives the blurred line. -/
theorem test_unsharp_minus_one :
    px (after (.unsharp (.slot 0) .null 0x3F800000 0xBF800000 0) (with0 (flat 2 1 [255, 0]))) 0 6 =
      [175, 175, 175, 80, 80, 80] := by decide +kernel

/-- V-SELBLUR-2: with a threshold of 128 the band holds every value, and nothing changes. -/
theorem test_selblur_wide_band : px (after (.selblur (.slot 0) .null 0 128) (with0 wide)) 0 6 =
    [10, 10, 10, 20, 20, 20] := by decide +kernel

/-- V-FFT-10 -/
theorem test_fft2_one_pixel :
    let t := after (.fft2 (.slot 0) .null (.slot 1) (.slot 2) false false false) (with0 (flat 1 1 [192]))
    px t 1 1 = [132] ∧ px t 2 1 = [128] := by decide +kernel

/-- V-FFT-15 -/
theorem test_fft2_magnitude :
    let t := after (.fft2 (.slot 0) .null (.slot 1) (.slot 2) false false true) (with0 (flat 2 1 [128, 128]))
    px t 1 2 = [0, 0] ∧ px t 2 2 = [128, 128] := by decide +kernel

/-- R234 by hand on levels 10 and 16 with counts 1 and 4: potential difference is largest at 14, where 1·4² = 4·2²;
Otsu's candidate is 10, the lower end, so the midpoint 13 (R235). -/
theorem test_optthresh_methods :
    let s := with0 (idx 5 1 256 [10, 16, 16, 16, 16])
    (after (.optthresh (.slot 0) .null 4 none) s).result = 14#32 ∧
    (after (.optthresh (.slot 0) .null 1 none) s).result = 13#32 := by decide +kernel

/-- V-OT-6: an empty box. -/
theorem test_optthresh_empty :
    let t := after (.optthresh (.slot 0) .null 1 (some ⟨2, 0, 2, 1⟩)) (with0 (idx 4 1 256 [10, 10, 200, 200]))
    t.result = 0xFFFFFFFF#32 ∧ statusWord t = 0x00000702#32 := by decide +kernel

/-- R233, R240, R242: one level 50 has threshold 49; with bias 0 the pixel is above it. -/
theorem test_adaptthresh_level :
    let t := after (.adaptthresh (.slot 0) .null (.slot 1) 1 8 0 0) (with0 (flat 2 1 [50, 50]))
    t.result = 49#32 ∧ px t 1 2 = [1, 1] := by decide +kernel

/-- The same with bias 1: the cell value is 50, and no pixel exceeds it. -/
theorem test_adaptthresh_bias :
    px (after (.adaptthresh (.slot 0) .null (.slot 1) 1 8 1 0) (with0 (flat 2 1 [50, 50]))) 1 2 = [0, 0] := by
  decide +kernel

/-- V-TMASK-4 -/
theorem test_threshmask_colour :
    let t := after (.threshmask (.slot 0) (.slot 1) (.slot 2))
      (with01 (rgb 2 1 [255, 0, 0, 0, 0, 255]) (gray 2 1 [50, 50]))
    px t 2 2 = [1, 0] ∧ (t.slot 2).sfmt = 0x00020001#32 := by decide +kernel

/-- V-FILL-12 -/
theorem test_floodfill_blend :
    px (after (.floodfill (.slot 0) false 0 0 ⟨0, 0, 255⟩ 0 3 64 0)
      (with0 (rgb 3 1 [100, 100, 100, 103, 98, 100, 100, 100, 110]))) 0 9 =
      [74, 74, 138, 76, 73, 138, 100, 100, 110] := by decide +kernel

/-- V-FILL-13, tracking the selection. -/
theorem test_floodfill_index :
    let t := after (.floodfill (.slot 0) true 0 0 ⟨0, 0, 0⟩ 7 0 1 1) (with0 (idx 3 1 8 [4, 4, 5]))
    px t 0 3 = [7, 7, 5] ∧ (t.slot 0).selv = true ∧ (t.slot 0).sbox1 = 0x00010002#32 := by decide +kernel

/-- V-TRACE-7 -/
theorem test_trace_pair :
    px (after (.trace (.slot 0) (.slot 1) ⟨0, 0, 0⟩ ⟨255, 0, 0⟩) (with0 (flat 2 1 [0, 0]))) 1 6 =
      [255, 0, 0, 255, 0, 0] := by decide +kernel

/-- V-TRACE-9: no match is all white and success. -/
theorem test_trace_no_match :
    let t := after (.trace (.slot 0) (.slot 1) ⟨1, 1, 1⟩ ⟨255, 0, 0⟩) (with0 (flat 1 1 [0]))
    px t 1 3 = [255, 255, 255] ∧ statusWord t = 0x00000002#32 := by decide +kernel

/-! ### Witnesses of the statements' hypotheses -/

theorem test_witness_StepKeepsInvariant :
    (State.reset.started (blk 0x00FF1002 3)).Inv ∧ ∃ t, step (State.reset.started (blk 0x00FF1002 3)) = .next t := by
  refine ⟨⟨by decide, by decide, fun _ => by decide⟩, ?_⟩
  exact ⟨_, rfl⟩

theorem test_witness_IrqIsDoneGatedByEnable : (2#32 : Word).getLsbD 1 = true := by decide

theorem test_witness_DecodeOfEncode :
    (Instr.fft2 (.slot 7) .null (.slot 8) (.slot 14) true false true).wf = true ∧
    (Instr.optthresh (.slot 0) .null 7 (some ⟨0xFFFF, 0, 1, 2⟩)).wf = true := by decide

/-- Both values of every clause of the acceptance condition: a command of each group. -/
theorem test_witness_DecodeChecksReservedFields :
    (∃ i, decode (blk 0x00FF1009 3) = .ok i) ∧ (∃ i, decode (blk 0x0721F010) = .ok i) ∧
    (∃ i, decode (blk 0x01FFF018 1) = .ok i) ∧ (∃ i, decode (blk 0x00F2101A) = .ok i) ∧
    (∃ i, decode (blk 0x01FFF020) = .ok i) := by
  refine ⟨⟨_, rfl⟩, ⟨_, rfl⟩, ⟨_, rfl⟩, ⟨_, rfl⟩, ⟨_, rfl⟩⟩

/-- A command with the engine's turn, the same with a host event one step off and with one that is due, an event with no
command in progress, and neither. -/
theorem test_witness_StepRunsTheLatchedCommand :
    let s := (with0 quad).started (blk 0x00FF1002 3)
    let soon : State := { s with host := [⟨1, .powerOn⟩] }
    let due : State := { s with host := [⟨0, .read 0x008 .four⟩] }
    let free : State := { with0 quad with host := [⟨5, .write 0x004 .four 1⟩] }
    s.job = some ⟨blk 0x00FF1002 3, 0, .toPoll⟩ ∧ (∀ e ∈ s.host.head?, 0 < e.wait) ∧
      decode (blk 0x00FF1002 3) = .ok (.erode (.slot 0) (.slot 1) 3) ∧
      (∀ e ∈ soon.host.head?, 0 < e.wait) ∧ soon.job = s.job ∧
      due.host = [⟨0, .read 0x008 .four⟩] ∧ free.host = [⟨5, .write 0x004 .four 1⟩] ∧ free.job = none ∧
      State.reset.host = [] ∧ State.reset.job = none := by decide

/-- START alone, and a block of each kind. -/
theorem test_witness_StartIsAccepted :
    (1#32 : Word).getLsbD 0 = true ∧ (1#32 : Word).getLsbD 31 = false ∧ State.reset.busy = false ∧
    (∀ e ∈ (hostWrite State.reset 0x004#32 .four 1#32).host.head?, 0 < e.wait) ∧
    decode State.reset.cmd = .error .illegalOpcode ∧
    ({ State.reset with cmd := blk 0x00FF1005 }).busy = false ∧
    decode ({ State.reset with cmd := blk 0x00FF1005 }).cmd = .ok (.contour (.slot 0) (.slot 1)) := by decide

/-- A block with an unknown opcode, and one with OPTTHRESH's. -/
theorem test_witness_IllegalBlockCompletes :
    let s := State.reset.started zeroBlock
    let u := State.reset.started (blk 0x02FFF018)
    s.job = some ⟨zeroBlock, 0, .toPoll⟩ ∧ (∀ e ∈ s.host.head?, 0 < e.wait) ∧ decode zeroBlock = .error .illegalOpcode ∧
    u.job = some ⟨blk 0x02FFF018, 0, .toPoll⟩ ∧ (∀ e ∈ u.host.head?, 0 < e.wait) ∧
    decode (blk 0x02FFF018) = .error .reservedFlag ∧ (blk 0x02FFF018).w0.extractLsb' 0 8 = 0x18#8 := by decide

/-- One input for each clause: no source, a bad target, a class that is not accepted, a side out of range and
the radius 256.0. -/
theorem test_witness_SameFormatChecksInOrder :
    SameFormat .null (.slot 9) (.erode .null (.slot 9) 3) true ∧
    IsBadSlot (.slot 9) ∧ SameFormat (.slot 0) .null (.erode (.slot 0) .null 0) false ∧
    SameFormat (.slot 0) .null (.gaussblur (.slot 0) .null 0x43800000#32) false ∧
    (State.reset.slot 0).valid .default = false ∧ ((with0 quad).slot 0).valid .default = true ∧ ((with0 quad).slot 0).cls = .rgb24 ∧
    ((with0 (idx 1 1 8 [4])).slot 0).valid .default = true ∧ ((with0 (idx 1 1 8 [4])).slot 0).cls = .idx8 := by
  refine ⟨.erode 3, ⟨9, rfl, by decide⟩, .erode 0, ?_, ?_⟩
  · have h : ((F64.ofF32 0x43800000#32).isFinite &&
        F64.le (F64.ofF32 0x43800000#32).abs (F64.ofNat 255)) = false := by decide +kernel
    exact h ▸ .gaussblur 0x43800000#32
  · decide +kernel

/-- One input for each clause: no source; sizes that differ; one target twice; a size beyond the working limit. -/
theorem test_witness_Fft2ChecksInOrder :
    ((with01 quad tall).slot 0).valid .default = true ∧ ((with01 quad tall).slot 1).valid .default = true ∧
    ((with01 quad tall).slot 0).w ≠ ((with01 quad tall).slot 1).w ∧
    Target (.slot 2) (.slot 0) 2 ∧ Target (.slot 2) .null 2 ∧
    (let big := { Slot.blank 0 with w := 40000#16, h := 1#16, depth := 3#2 }
     big.valid .default = true ∧ 65535 < nextPow2 big.width) := by
  refine ⟨by decide, by decide, by decide, .inl rfl, .inl rfl, ?_⟩
  decide +kernel

/-- One input for each clause: no source; a source of another depth; a mask of another size; a method above 4; a NaN
balance. -/
theorem test_witness_ThresholdChecksInOrder :
    (State.reset.slot 0).valid .default = false ∧ ((with0 quad).slot 0).valid .default = true ∧ ((with0 quad).slot 0).depth ≠ 2#2 ∧
    ((with01 (idx 2 1 256 [1, 2]) (idx 1 1 256 [1])).slot 0).valid .default = true ∧
    ((with01 (idx 2 1 256 [1, 2]) (idx 1 1 256 [1])).slot 1).valid .default = true ∧
    ((with01 (idx 2 1 256 [1, 2]) (idx 1 1 256 [1])).slot 0).w ≠
      ((with01 (idx 2 1 256 [1, 2]) (idx 1 1 256 [1])).slot 1).w ∧
    4 < (5#3 : BitVec 3).toNat ∧ F64.ofF32 0x7FC00000#32 = .nan := by decide +kernel

/-- One input for each clause: THRESHMASK without a mask and with a mask of another size; TRACE without a source;
FLOODFILL without a source and with an index at its palette's end (V-FILL-15). -/
theorem test_witness_RegionAndMaskChecksInOrder :
    (State.reset.slot 0).valid .default = false ∧ ((with01 quad tall).slot 0).valid .default = true ∧
    ((with01 quad tall).slot 1).valid .default = true ∧ ((with01 quad tall).slot 1).w ≠ ((with01 quad tall).slot 0).w ∧
    ((with0 (idx 1 1 8 [4])).slot 0).valid .default = true ∧ ((with0 (idx 1 1 8 [4])).slot 0).depth ≠ 3#2 ∧
    ((with0 (idx 1 1 8 [4])).slot 0).paln.toNat ≤ (8#8 : Byte).toNat := by decide +kernel

theorem test_witness_ErrorCompletionsChangeNothing :
    State.reset.err = .ok ∧ ∃ t, exec (.contour (.slot 0) .null) State.reset = .next t ∧ t.err ≠ .ok :=
  ⟨rfl, _, rfl, by decide⟩

theorem test_witness_NoCommandWritesItsInputs :
    ∃ t, exec (.contour (.slot 0) .null) State.reset = .next t ∧ isThreshold (.contour (.slot 0) .null) = false :=
  ⟨_, rfl, rfl⟩

/-- A command with a step, a slot that it may not write and one that it may. -/
theorem test_witness_OnlyDestinationsChange :
    (∃ t, exec (.trace (.slot 0) (.slot 1) ⟨0, 0, 0⟩ ⟨255, 0, 0⟩) (with0 quad) = .next t) ∧
    ¬ MayWrite (.trace (.slot 0) (.slot 1) ⟨0, 0, 0⟩ ⟨255, 0, 0⟩) 0 ∧
    MayWrite (.trace (.slot 0) (.slot 1) ⟨0, 0, 0⟩ ⟨255, 0, 0⟩) 1 := by
  refine ⟨⟨_, rfl⟩, ?_, .trace (.inl rfl)⟩
  intro h
  cases h with
  | trace h => rcases h with h | h <;> exact absurd h (by decide)

theorem test_witness_UnnamedSlotsDoNotMatter :
    ∀ f ∈ slotFields (.contour (.slot 0) (.slot 1)), f ≠ .slot (2 : SlotNo) := by decide

/-- A kernel that differs at entry 1 only, for a command of side 1. -/
theorem test_witness_OnlyFilterReadsTheKernel :
    let s : State := { with0 quad with kram := [(0, 1#16)] }
    let i : Instr := .filter (.slot 0) .null 1#8 1#32 0#32
    ∀ sa sb k factor bias, i = .filter sa sb k factor bias →
      ∀ n, n < k.toNat * k.toNat → { s with kram := [(0, 1#16), (1, 7#16)], kramGen := 99 }.coef n = s.coef n := by
  intro s i sa sb k factor bias h n hn
  injection h with _ _ h3 _ _
  subst h3
  obtain rfl : n = 0 := by
    have h1 : (1#8 : Byte).toNat = 1 := rfl
    rw [h1] at hn
    omega
  rfl

/-- A host event in the second of two rows' polls: before it, between its halves, and between its reading of CANCEL, at 0
and at 1, and what follows; and ADAPTHRESH between its two cells, with the old RESULT. -/
theorem test_witness_NothingIsPublishedWhileBusy :
    let s (w : Nat) : State := { (with0 tall).started (blk 0x00FFF002 3) with host := [⟨w, .read 0 .four⟩] }
    let c : State := { s 1 with cancel := true, job := some ⟨blk 0x00FFF002 3, 1, .reported⟩ }
    let u : State := { (with0 (flat 9 1 (List.replicate 9 50))).started (blk 0x00F1F019 1 8 0 0) with
      host := [⟨3, .read 0 .four⟩] }
    let stands (t : State) := (t.busy, t.unitsDone, t.phase, t.progress)
    PollUnits (s 3) (.erode (.slot 0) .null 3) ((s 3).slot 0).scanBox.rows ∧ ((s 3).slot 0).scanBox.rows = 2 ∧
    (∃ t, exec (.erode (.slot 0) .null 3) (s 3) = .next t ∧ stands t = (true, 1, .toPoll, 0)) ∧
    stands (after (.erode (.slot 0) .null 3) (s 4)) = (true, 1, .reported, 50) ∧
    stands (after (.erode (.slot 0) .null 3) (s 5)) = (true, 1, .passed, 50) ∧
    stands (after (.erode (.slot 0) .null 3) c) = (true, 1, .stopping, 0) ∧
    let t := after (.adaptthresh (.slot 0) .null (.slot 1) 1 8 0 0) u
    stands t = (true, 1, .toPoll, 0) ∧ t.result = 0 := by
  refine ⟨.rows (a := 0) (.erode 3), by decide, ⟨_, rfl, ?_⟩, ?_, ?_, ?_, ?_⟩ <;> decide +kernel

/-- The host acts between a poll and the completion it leads to (R324): a CANCEL cleared after the poll that read it does
not undo the stop, and one set after the poll of a cell without a threshold comes too late. -/
theorem test_host_between_poll_and_completion :
    let s : State := { with0 tall with
      cancel := true, job := some ⟨blk 0x00FFF002 3, 1, .stopping⟩, progress := 50, host := [⟨0, .write 0x004 .four 0⟩] }
    let u : State := { with01 (idx 2 1 256 [1, 2]) (gray 2 1 [0, 0]) with
      job := some ⟨blk 0x00F21019 0 8 0 0, 0, .passed⟩, host := [⟨0, .write 0x004 .four 2⟩] }
    let run (v : State) := match Host.Core.run Sys2Proof.core 2 v with
      | .next t => (statusWord t, t.progress)
      | .fault _ => (0, 0)
      | .refused _ => (0, 0)
    run s = (0x00000006#32, 50) ∧ run u = (0x00000702#32, 0) := by decide +kernel

/-- CANCEL at 1 with no unit left: an empty scan box, and both columns of an image done; neither is cancelled
(R135). -/
theorem test_cancel_without_a_poll :
    let s : State := { with0 { quad with selv := true } with cancel := true }
    let u : State := { (with0 wide).started (blk 0x00FF1006 0) with cancel := true, job := some ⟨blk 0x00FF1006 0, 2, .toPoll⟩ }
    (s.slot 0).scanBox.rows ≤ s.unitsDone ∧ statusWord (after (.erode (.slot 0) .null 3) s) = 2#32 ∧
    (u.slot 0).width ≤ u.unitsDone ∧ statusWord (after (.gaussblur (.slot 0) (.slot 1) 0) u) = 2#32 := by
  decide +kernel

theorem test_witness_NoCommandSucceedsWithoutASlot : ∀ j, (State.reset.slot j).valid .default = false := by decide +kernel

theorem test_witness_CommandsCompleteWithoutTheHost :
    ((with0 quad).started (blk 0x00FF1002 3)).busy = true ∧ ((with0 quad).started (blk 0x00FF1002 3)).host = [] := by
  decide

theorem test_witness_AReadWhileBusyDoesNotDisturb :
    let s := (with0 quad).started (blk 0x00FF1002 3)
    s.job = some ⟨blk 0x00FF1002 3, 0, .toPoll⟩ ∧ decode (blk 0x00FF1002 3) = .ok (.erode (.slot 0) (.slot 1) 3) ∧
      s.host = [] := by decide

/-- The hypotheses that the same-format statements share, for slot 0 of a state with no host event. -/
theorem same_format_ready (t : Slot) (n : Nat) (h : t.valid .default = true ∧ t.laned = true) :
    dest (0 : SlotNo) (.slot 1) = .ok 1 ∧ ((with0 t).slot 0).valid .default = true ∧ ((with0 t).slot 0).laned = true ∧
      (with0 t).pollsPass n ∧ (with0 t).quiet n :=
  ⟨rfl, h.1, h.2, .inr ⟨show Phase.toPoll ≠ .stopping by decide, .inl rfl⟩, quiet_of_noHost _ _ rfl⟩

theorem quad_ready (n : Nat) :
    dest (0 : SlotNo) (.slot 1) = .ok 1 ∧ ((with0 quad).slot 0).valid .default = true ∧ ((with0 quad).slot 0).laned = true ∧
      (with0 quad).pollsPass n ∧ (with0 quad).quiet n :=
  same_format_ready quad n (by decide)

theorem test_witness_FilterConvolves :
    (dest (0 : SlotNo) (.slot 1) = .ok 1 ∧ ((with0 quad).slot 0).valid .default = true ∧ ((with0 quad).slot 0).laned = true ∧
      (with0 quad).pollsPass ((with0 quad).slot 0).scanBox.rows ∧ (with0 quad).quiet ((with0 quad).slot 0).scanBox.rows) ∧
    (15#8 : Byte).toNat % 2 = 1 ∧ (15#8 : Byte).toNat ≤ 15 :=
  ⟨quad_ready _, by decide⟩

/-- ERODE, DILATE, EDGE and MEDIAN at the two ends of their range of sides. -/
theorem test_witness_ErodeTakesTheWindowMinimum :
    (dest (0 : SlotNo) (.slot 1) = .ok 1 ∧ ((with0 quad).slot 0).valid .default = true ∧ ((with0 quad).slot 0).laned = true ∧
      (with0 quad).pollsPass ((with0 quad).slot 0).scanBox.rows ∧ (with0 quad).quiet ((with0 quad).slot 0).scanBox.rows) ∧
    1 ≤ (1#8 : Byte).toNat ∧ 1 ≤ (255#8 : Byte).toNat :=
  ⟨quad_ready _, by decide⟩

theorem test_witness_DilateTakesTheWindowMaximum :
    (dest (0 : SlotNo) (.slot 1) = .ok 1 ∧ ((with0 quad).slot 0).valid .default = true ∧ ((with0 quad).slot 0).laned = true ∧
      (with0 quad).pollsPass ((with0 quad).slot 0).scanBox.rows ∧ (with0 quad).quiet ((with0 quad).slot 0).scanBox.rows) ∧
    1 ≤ (2#8 : Byte).toNat :=
  ⟨quad_ready _, by decide⟩

theorem test_witness_EdgeIsTheInvertedSpread :
    (dest (0 : SlotNo) (.slot 1) = .ok 1 ∧ ((with0 quad).slot 0).valid .default = true ∧ ((with0 quad).slot 0).laned = true ∧
      (with0 quad).pollsPass ((with0 quad).slot 0).scanBox.rows ∧ (with0 quad).quiet ((with0 quad).slot 0).scanBox.rows) ∧
    1 ≤ (3#8 : Byte).toNat :=
  ⟨quad_ready _, by decide⟩

theorem test_witness_ContourIsTheInvertedGradient :
    dest (0 : SlotNo) (.slot 1) = .ok 1 ∧ ((with0 quad).slot 0).valid .default = true ∧ ((with0 quad).slot 0).laned = true ∧
      (with0 quad).pollsPass ((with0 quad).slot 0).scanBox.rows ∧ (with0 quad).quiet ((with0 quad).slot 0).scanBox.rows :=
  quad_ready _

theorem test_witness_MedianTakesTheMiddleKey :
    (dest (0 : SlotNo) (.slot 1) = .ok 1 ∧ ((with0 quad).slot 0).valid .default = true ∧ ((with0 quad).slot 0).laned = true ∧
      (with0 quad).pollsPass ((with0 quad).slot 0).scanBox.rows ∧ (with0 quad).quiet ((with0 quad).slot 0).scanBox.rows) ∧
    1 ≤ (255#8 : Byte).toNat :=
  ⟨quad_ready _, by decide⟩

/-- Radius 1.0, and −255.0 at the end of the range. -/
theorem test_witness_GaussblurBlursEveryPixelInScope :
    (dest (0 : SlotNo) (.slot 1) = .ok 1 ∧ ((with0 quad).slot 0).valid .default = true ∧ ((with0 quad).slot 0).laned = true ∧
      (with0 quad).pollsPass ((with0 quad).slot 0).width ∧ (with0 quad).quiet ((with0 quad).slot 0).width) ∧
    (F64.ofF32 0x3F800000#32).isFinite = true ∧ F64.le (F64.ofF32 0x3F800000#32).abs (F64.ofNat 255) = true ∧
    (F64.ofF32 0xC37F0000#32).isFinite = true ∧ F64.le (F64.ofF32 0xC37F0000#32).abs (F64.ofNat 255) = true :=
  ⟨quad_ready _, by decide +kernel⟩

theorem test_witness_GaussblurOfRadiusZeroIsTheIdentity :
    dest (0 : SlotNo) (.slot 1) = .ok 1 ∧ ((with0 quad).slot 0).valid .default = true ∧ ((with0 quad).slot 0).laned = true ∧
      (with0 quad).pollsPass ((with0 quad).slot 0).width ∧ (with0 quad).quiet ((with0 quad).slot 0).width :=
  quad_ready _

theorem test_witness_UnsharpMergesWithTheBlur :
    (dest (0 : SlotNo) (.slot 1) = .ok 1 ∧ ((with0 quad).slot 0).valid .default = true ∧ ((with0 quad).slot 0).laned = true ∧
      (with0 quad).pollsPass ((with0 quad).slot 0).scanBox.rows ∧ (with0 quad).quiet ((with0 quad).slot 0).scanBox.rows) ∧
    (F64.ofF32 0x3F800000#32).isFinite = true ∧ F64.le (F64.ofF32 0x3F800000#32).abs (F64.ofNat 255) = true ∧
    (F64.ofF32 0x3F000000#32).isFinite = true :=
  ⟨quad_ready _, by decide +kernel⟩

theorem test_witness_SelblurBlursOutsideTheBand :
    (dest (0 : SlotNo) (.slot 1) = .ok 1 ∧ ((with0 quad).slot 0).valid .default = true ∧ ((with0 quad).slot 0).laned = true ∧
      (with0 quad).pollsPass ((with0 quad).slot 0).width ∧ (with0 quad).quiet ((with0 quad).slot 0).width) ∧
    (F64.ofF32 0x3F800000#32).isFinite = true ∧ F64.le (F64.ofF32 0x3F800000#32).abs (F64.ofNat 255) = true :=
  ⟨quad_ready _, by decide +kernel⟩

theorem test_witness_MorphologyRelations : 0 < quad.width ∧ 1 < quad.height := by decide

/-- A cancel seen at the second of two rows. -/
theorem test_witness_CancelledRowsAreAPrefix :
    let s : State := { (with0 tall).started (blk 0x00FF1002 3) with cancel := true, job := some ⟨blk 0x00FF1002 3, 1, .toPoll⟩ }
    RowPolled (.slot 0) (.slot 1) (.erode (.slot 0) (.slot 1) 3) ∧
    SameFormat (.slot 0) (.slot 1) (.erode (.slot 0) (.slot 1) 3) true ∧ dest (0 : SlotNo) (.slot 1) = .ok 1 ∧
    (s.slot 0).valid .default = true ∧ (s.slot 0).laned = true ∧ s.stopsAt (s.slot 0).scanBox.rows 1 ∧
    s.quiet (s.slot 0).scanBox.rows ∧
    (∃ t, exec (.erode (.slot 0) (.slot 1) 3) s = .next t) ∧
    ∃ u, exec (.erode (.slot 0) (.slot 1) 3) { s with cancel := false, host := [], job := none } = .next u := by
  refine ⟨.erode 3, .erode 3, rfl, ?_, ?_, ⟨?_, rfl, rfl⟩, quiet_of_noHost _ _ rfl, ⟨_, rfl⟩, ⟨_, rfl⟩⟩ <;> decide

/-- A cancel seen at the second of two columns. -/
theorem test_witness_CancelledColumnsAreAPrefix :
    let s : State := { (with0 wide).started (blk 0x00FF1006 0) with cancel := true, job := some ⟨blk 0x00FF1006 0, 1, .toPoll⟩ }
    ColumnPolled (.slot 0) (.slot 1) (.gaussblur (.slot 0) (.slot 1) 0) ∧
    SameFormat (.slot 0) (.slot 1) (.gaussblur (.slot 0) (.slot 1) 0)
      ((F64.ofF32 0).isFinite && F64.le (F64.ofF32 0).abs (F64.ofNat 255)) ∧
    ((F64.ofF32 0).isFinite && F64.le (F64.ofF32 0).abs (F64.ofNat 255)) = true ∧ dest (0 : SlotNo) (.slot 1) = .ok 1 ∧
    (s.slot 0).valid .default = true ∧ (s.slot 0).laned = true ∧ s.stopsAt (s.slot 0).width 1 ∧ s.quiet (s.slot 0).width ∧
    (∃ t, exec (.gaussblur (.slot 0) (.slot 1) 0) s = .next t) ∧
    ∃ u, exec (.gaussblur (.slot 0) (.slot 1) 0) { s with cancel := false, host := [], job := none } = .next u := by
  refine ⟨.gaussblur 0, .gaussblur 0, ?_, rfl, ?_, ?_, ⟨?_, rfl, rfl⟩, quiet_of_noHost _ _ rfl, ?_, ?_⟩
  · decide +kernel
  · decide
  · decide
  · decide
  · exact exec_gaussblur_next _
  · exact exec_gaussblur_next _
where
  /-- GAUSSBLUR answers a next state. -/
  exec_gaussblur_next (s : State) : ∃ t, exec (.gaussblur (.slot 0) (.slot 1) 0) s = .next t := by
    show ∃ t, execGaussblur (.slot 0) (.slot 1) 0 s = .next t
    unfold execGaussblur
    split <;> exact ⟨_, rfl⟩

/-- V-FFT-1's slots on a 2×2 image, its own size and a power of 2. -/
theorem test_witness_Fft2WritesItsTargets :
    (with0 quad).fftPlan (.slot 0) .null (.slot 1) (.slot 2) false =
      .ok ⟨some 0, none, some 1, some 2, 2, 2⟩ ∧ (with0 quad).quiet 0 :=
  ⟨by decide +kernel, quiet_of_noHost _ _ rfl⟩

theorem test_witness_Fft2PlansItsTargets :
    (with0 (flat 3 1 [160, 128, 128])).fftPlan (.slot 0) .null .null (.slot 2) true =
      .ok ⟨some 0, none, some 0, some 2, 4, 1⟩ := by decide +kernel

/-- A point of a 4 × 3 grid, the last element of a line whose length is a power of two, and a line whose length is
none. -/
theorem test_witness_Fft2TransformsRowsThenColumns :
    3 < 4 ∧ 2 < 3 ∧ ([cxZero, cxZero, cxZero, cxZero].length = 2 ^ 2 ∧ 3 < 2 ^ 2) ∧
    2 < [cxZero, cxZero, cxZero].length ∧ ∀ m, [cxZero, cxZero, cxZero].length ≠ 2 ^ m := by
  refine ⟨by decide, by decide, by decide, by decide, fun m => ?_⟩
  cases m with
  | zero => decide
  | succ m => rw [pow_succ, show [cxZero, cxZero, cxZero].length = 3 from rfl]; omega

/-- No pixel, one level and two levels, in a box of one row. -/
theorem test_witness_ThresholdIsTheMethodsCandidate :
    let g : Nat → Nat → Nat := fun x _ => if x < 2 then 10 else 200
    let m : Nat → Nat → Bool := fun _ _ => true
    (∀ x y, g x y < 256) ∧ ¬ HasPixel m ⟨2, 0, 2, 1⟩ ∧
    (Occurs g m ⟨0, 0, 2, 1⟩ 10 ∧ ∀ v, Occurs g m ⟨0, 0, 2, 1⟩ v → 10 ≤ v ∧ v ≤ 10) ∧
    (Occurs g m ⟨0, 0, 4, 1⟩ 10 ∧ Occurs g m ⟨0, 0, 4, 1⟩ 200 ∧
      ∀ v, Occurs g m ⟨0, 0, 4, 1⟩ v → 10 ≤ v ∧ v ≤ 200) := by
  refine ⟨?_, ?_, ⟨⟨0, 0, by decide⟩, ?_⟩, ⟨0, 0, by decide⟩, ⟨2, 0, by decide⟩, ?_⟩
  · intro x y; dsimp only; split <;> decide
  · rintro ⟨x, y, h1, h2, -⟩; dsimp only at h1 h2; omega
  · rintro v ⟨x, y, -, h2, -, -, -, h⟩; dsimp only at h h2; rw [if_pos h2] at h; omega
  · rintro v ⟨x, y, -, -, -, -, -, h⟩; dsimp only at h; split at h <;> omega

/-- V-OT-4 and V-OT-6: a box with a pixel and a box without. -/
theorem test_witness_OptthreshReportsTheThreshold :
    let s := with0 (idx 3 1 256 [7, 7, 7])
    (s.slot 0).valid .default = true ∧ (s.slot 0).depth = 2#2 ∧ s.sourceOpt .null = .ok none ∧
    (∀ i, (none : Option (SlotNo)) = some i → maskFits (s.slot i) (s.slot 0) = true) ∧
    (4#3 : BitVec 3).toNat ≤ 4 ∧ s.quiet 0 ∧
    (∃ x y, 0 ≤ x ∧ x < (s.slot 0).width ∧ 0 ≤ y ∧ y < (s.slot 0).height) ∧
    (min (2#16 : BitVec 16).toInt (s.slot 0).width).toNat ≤ (max (2#16 : BitVec 16).toInt 0).toNat :=
  ⟨by decide, by decide, rfl, by simp, by decide, quiet_of_noHost _ _ rfl, ⟨0, 0, by decide⟩, by decide⟩

theorem test_witness_AdaptthreshBinarizesByCell :
    let s := with0 wide
    (s.slot 0).valid .default = true ∧ s.sourceOpt .null = .ok none ∧ dest (0 : SlotNo) (.slot 1) = .ok 1 ∧
    (∀ i, (none : Option (SlotNo)) = some i → maskFits (s.slot i) (s.slot 0) = true) ∧
    (4#3 : BitVec 3).toNat ≤ 4 ∧ F64.ofF32 0#32 ≠ .nan ∧
    (∀ tx ty, tx < 1 → ty < 1 →
      HasPixel (s.maskAt none) ⟨tx * 8, ty * 8, min (tx * 8 + 8) (s.slot 0).width, min (ty * 8 + 8) (s.slot 0).height⟩) ∧
    s.pollsPass 1 ∧ s.quiet 1 := by
  refine ⟨by decide, rfl, rfl, by simp, by decide, by decide +kernel, ?_, .inr ⟨by decide, .inl rfl⟩,
    quiet_of_noHost _ _ rfl⟩
  intro tx ty h1 h2
  obtain rfl : tx = 0 := by omega
  obtain rfl : ty = 0 := by omega
  exact ⟨0, 0, by decide⟩

/-- A whole image with a pixel (CANCEL at 1), and an all-zero mask, under which neither the image nor its one cell has
one (CANCEL at 0 and at 1). -/
theorem test_witness_AdaptthreshStopsWithoutWriting :
    let s := with01 (idx 2 1 256 [1, 2]) (gray 2 1 [0, 0])
    let c : State := { with0 wide with cancel := true }
    (s.slot 0).valid .default = true ∧ s.sourceOpt (.slot 1) = .ok (some 1) ∧ dest (0 : SlotNo) (.slot 2) = .ok 2 ∧
    maskFits (s.slot 1) (s.slot 0) = true ∧ (0#3 : BitVec 3).toNat ≤ 4 ∧ F64.ofF32 0#32 ≠ .nan ∧
    s.unitsDone ≤ 0 ∧ s.pollsPass (0 + 1) ∧ ¬ HasPixel (s.maskAt (some 1)) ⟨0, 0, 2, 1⟩ ∧ s.quiet 1 ∧
    { s with cancel := true }.maskAt (some 1) = s.maskAt (some 1) ∧
    (c.slot 0).valid .default = true ∧ c.sourceOpt .null = .ok none ∧ c.stopsAt 1 0 ∧ (∀ i, c.unitsDone ≤ i → i < 0 → HasPixel (c.maskAt none) ⟨0, 0, 2, 1⟩) ∧ c.quiet 1 ∧
    HasPixel (c.maskAt none) ⟨0, 0, (c.slot 0).width, (c.slot 0).height⟩ := by
  refine ⟨by decide, by decide, rfl, by decide +kernel, by decide, by decide +kernel, by decide,
    .inr ⟨by decide, .inl rfl⟩, ?_, quiet_of_noHost _ _ rfl, rfl, by decide, rfl, ⟨by decide, rfl, rfl⟩,
    fun _ _ h => absurd h (Nat.not_lt_zero _), quiet_of_noHost _ _ rfl, ⟨0, 0, by decide⟩⟩
  rintro ⟨x, y, -, hx, -, hy, hm⟩
  dsimp only at hx hy
  obtain rfl : y = 0 := by omega
  have : x = 0 ∨ x = 1 := by omega
  rcases this with rfl | rfl <;> exact absurd hm (by decide)

/-- R128 by hand: `(306·10 + 601·200 + 117·60) >> 10 = 127` of an RGB24 pixel, black of an index that is PALN, the index
of a GRAY8 pixel, and white, in the second palette entry, of the odd byte 3 of an IDX1 image. -/
theorem test_gray_values :
    let bw : Slot := { idx 1 1 2 [3] with depth := 1, pal := [(0, ⟨0, 0, 0⟩), (1, ⟨255, 255, 255⟩)] }
    quad.grayv 1 0 = 127 ∧ (idx 1 1 8 [8]).grayv 0 0 = 0 ∧ (gray 1 1 [77]).grayv 0 0 = 77 ∧ bw.grayv 0 0 = 255 := by
  decide +kernel

theorem test_witness_ThreshmaskBinarizes :
    let s := with01 wide (gray 2 1 [50, 50])
    (s.slot 0).valid .default = true ∧ (s.slot 1).valid .default = true ∧ maskFits (s.slot 1) (s.slot 0) = true ∧
    dest (0 : SlotNo) (.slot 2) = .ok 2 ∧ s.quiet 0 :=
  ⟨by decide, by decide, by decide +kernel, rfl, quiet_of_noHost _ _ rfl⟩

/-- A seed at the last pixel of an IDX8 image, and the largest index its palette holds. -/
theorem test_witness_FloodfillPaintsTheRegion :
    let s := with0 (idx 3 1 8 [4, 4, 5])
    (s.slot 0).valid .default = true ∧ ((s.slot 0).depth ≠ 3#2 → (7#8 : Byte).toNat < (s.slot 0).paln.toNat) ∧ s.quiet 0 ∧
    0 ≤ (2#16 : BitVec 16).toInt ∧ 0 ≤ (0#16 : BitVec 16).toInt ∧ (2#16 : BitVec 16).toNat < (s.slot 0).width ∧
    (0#16 : BitVec 16).toNat < (s.slot 0).height ∧ (s.slot 0).inscope 2 0 = true :=
  ⟨by decide, by decide, quiet_of_noHost _ _ rfl, by decide⟩

/-- The same with a selection that holds the seed. -/
theorem test_witness_FloodfillTracksTheSelection :
    let s := with0 { wide with selv := true, bx1 := 2, by1 := 1, sel := bytes [1, 0] }
    (s.slot 0).valid .default = true ∧ ((s.slot 0).depth ≠ 3#2 → (7#8 : Byte).toNat < (s.slot 0).paln.toNat) ∧ s.quiet 0 ∧
    0 ≤ (0#16 : BitVec 16).toInt ∧ (0#16 : BitVec 16).toNat < (s.slot 0).width ∧
    (0#16 : BitVec 16).toNat < (s.slot 0).height ∧ (s.slot 0).inscope 0 0 = true :=
  ⟨by decide, by decide, quiet_of_noHost _ _ rfl, by decide⟩

/-- A seed left of the image, at its right edge (V-FILL-9), and outside the selection. -/
theorem test_witness_FloodfillOutsideIsANoOp :
    let s := with0 { wide with selv := true, bx1 := 2, by1 := 1, sel := bytes [1, 0] }
    (s.slot 0).valid .default = true ∧ ((s.slot 0).depth ≠ 3#2 → (7#8 : Byte).toNat < (s.slot 0).paln.toNat) ∧ s.quiet 0 ∧
    (0xFFFF#16 : BitVec 16).toInt < 0 ∧ (s.slot 0).width ≤ (2#16 : BitVec 16).toNat ∧
    (s.slot 0).height ≤ (1#16 : BitVec 16).toNat ∧ (s.slot 0).inscope 1 0 = false :=
  ⟨by decide, by decide, quiet_of_noHost _ _ rfl, by decide⟩

theorem test_witness_TraceDrawsOnWhite :
    ((with0 quad).slot 0).valid .default = true ∧ dest (0 : SlotNo) (.slot 1) = .ok 1 ∧ (with0 quad).quiet 0 :=
  ⟨by decide, rfl, quiet_of_noHost _ _ rfl⟩

/-- An image without the target colour, and one whose first pixel has it, with no neighbour that has. -/
theorem test_witness_TracePointsFollowTheTarget :
    (∀ x y, x < (flat 1 1 [0]).width → y < (flat 1 1 [0]).height → (flat 1 1 [0]).color x y ≠ ⟨1, 1, 1⟩) ∧
    0 < (flat 1 1 [0]).width ∧ 0 < (flat 1 1 [0]).height ∧ (flat 1 1 [0]).color 0 0 = ⟨0, 0, 0⟩ ∧
    (∀ x y, x < (flat 1 1 [0]).width → y < (flat 1 1 [0]).height → (flat 1 1 [0]).color x y = ⟨0, 0, 0⟩ →
      0 < y ∨ (0 = y ∧ 0 ≤ x)) ∧
    tracePoints (flat 1 1 [0]) ⟨0, 0, 0⟩ = [(0, 0)] := by
  refine ⟨?_, by decide, by decide, by decide, fun x y _ _ _ => by omega, by decide⟩
  intro x y hx hy
  have hw : (flat 1 1 [0]).width = 1 := by decide
  have hh : (flat 1 1 [0]).height = 1 := by decide
  obtain rfl : x = 0 := by omega
  obtain rfl : y = 0 := by omega
  decide

/-- A start at the right of its row: its first neighbour counter-clockwise from the east is the third step of the
table, above it; the other one, at its upper left, comes later. -/
theorem test_trace_first_neighbour :
    let t := flat 2 2 [9, 0, 0, 0]
    let steps : List (Int × Int) := [(1, 0), (1, 1), (0, 1), (-1, 1), (-1, 0), (-1, -1), (0, -1), (1, -1)]
    steps[2]? = some (((1 : Nat) : Int) - (1 : Nat), ((1 : Nat) : Int) - (0 : Nat)) ∧ t.color 1 0 = ⟨0, 0, 0⟩ ∧
    t.color 1 1 = ⟨0, 0, 0⟩ ∧ t.color 0 0 ≠ ⟨0, 0, 0⟩ ∧ (1, 1) ∈ tracePoints t ⟨0, 0, 0⟩ := by decide +kernel

theorem test_witness_MisalignedAccessesDoNothing :
    (0x20000001#32 : Word).toNat % Width.two.bytes ≠ 0 ∧ (0x006#32 : Word).toNat % Width.four.bytes ≠ 0 := by decide

/-- The two sides of the ends of the register ranges, and of the slots. -/
theorem test_witness_UnmappedAddressesReadZero :
    locate .default 0x014#32 = .caps ∧ locate .default 0x018#32 = .unmapped ∧ locate .default 0x01C#32 = .unmapped ∧ locate .default 0x020#32 = .cmd 0 ∧
    locate .default 0x03C#32 = .cmd 7 ∧ locate .default 0x040#32 = .unmapped ∧ locate .default 0x17C#32 = .sbox1 7 ∧
    locate .default 0x180#32 = .unmapped ∧ locate .default 0xB80#32 = .kram 224 ∧ locate .default 0xB84#32 = .unmapped ∧
    locate .default 0x170003FC#32 = .pal 7 255 ∧ locate .default 0x17000400#32 = .unmapped ∧ locate .default 0x27FFFFFF#32 = .pix 7 0xFFFFFF ∧
    locate .default 0x28000000#32 = .unmapped ∧ locate .default 0x50000000#32 = .unmapped := by decide

theorem test_witness_ReadsAreInertAndWritesIdempotent :
    State.reset.busy = false ∧ ((0x004#32 : Word) = 0x004#32 →
      (6#32 : Word).getLsbD 0 = false ∧ (6#32 : Word).getLsbD 31 = false) := by decide

/-- A word at the end of the last slot's pixel plane, and its last byte. -/
theorem test_witness_PlaneWritesReadBack :
    State.reset.busy = false ∧ (locate .default 0x27FFFFFC#32).isPlane = true ∧ legal .default 0x27FFFFFC#32 .four = true ∧
    (locate .default 0x27FFFFFF#32).isPlane = true := by decide

theorem test_witness_PlaneReadsAreLittleEndian :
    State.reset.busy = false ∧ (locate .default 0x47FFFFFC#32).isPlane = true ∧ legal .default 0x47FFFFFC#32 .two = true ∧
    legal .default 0x47FFFFFC#32 .four = true := by decide

theorem test_witness_RegistersReadBack : State.reset.busy = false ∧ 224 < 225 ∧ 255 < 256 ∧ (6#32 : Word).getLsbD 31 = false := by
  decide

/-- A CTRL word with CANCEL and IE alone, and the last address of the palette region, among the others. -/
theorem test_witness_RegisterWritesStayLocal :
    State.reset.busy = false ∧ 255 < 256 ∧ 224 < 225 ∧ 7 < 8 ∧ 3 < 4 ∧ (6#32 : Word).getLsbD 0 = false ∧
    (6#32 : Word).getLsbD 31 = false ∧ (0x1FFFFFFF#32 : Word).toNat < 2 ^ 29 ∧ Width.one ≠ .four := by decide

/-- A CMD word and a plane byte, a read-only register and an unmapped address, START without SRESET, and the lowest
address whose reads are unspecified. -/
theorem test_witness_BusyAccesses :
    (State.reset.started (blk 0x00FF1005)).busy = true ∧ legal .default 0x020#32 .four = true ∧ 0x020 ≤ (0x020#32 : Word).toNat ∧
    legal .default 0x27FFFFFF#32 .one = true ∧ legal .default 0x018#32 .four = false ∧ (1#32 : Word).getLsbD 31 = false ∧
    legal .default 0x100#32 .four = true ∧ 0x040 ≤ (0x100#32 : Word).toNat := by decide

/-- SRESET with no command in progress, with one that may write a slot, and with a block that is no command. -/
theorem test_witness_SoftResetClearsAndKeeps :
    (0x80000001#32 : Word).getLsbD 31 = true ∧ State.reset.job = none ∧
    (State.reset.started zeroBlock).job = some ⟨zeroBlock, 0, .toPoll⟩ ∧ decode zeroBlock = .error .illegalOpcode ∧
    (State.reset.started (blk 0x00FF1005)).job = some ⟨blk 0x00FF1005, 0, .toPoll⟩ ∧
    decode (blk 0x00FF1005) = .ok (.contour (.slot 0) (.slot 1)) ∧
    MayWrite (.contour (.slot 0) (.slot 1)) 1 ∧ ¬ MayWrite (.contour (.slot 0) (.slot 1)) 0 := by
  refine ⟨by decide, by decide, by decide, by decide, by decide, by decide, .contour (.inl rfl), ?_⟩
  intro h
  cases h with
  | contour h => rcases h with h | h <;> exact absurd h (by decide)

end Sys2Proof.Tests
end

section

/-! Single registers: the address map, accesses, the words of the registers, and reset (O12, O56, O5, O1). -/

namespace Sys2Proof.Machine

variable {cfg : Config}

theorem busy_eq_false {s : State cfg} : s.busy = false ↔ s.job = none := by
  simp [State.busy]

/-- What the address map promises of the location at address `a`: a memory index lies in its memory, and outside the
planes the address is a multiple of 4 (10_state.md R23, R35, 20_memory.md R64-R67). -/
def Loc.fits (a : Nat) : Loc cfg → Prop
  | .kram i => i < kramSize cfg ∧ a % 4 = 0
  | .pal _ i => i < 256 ∧ a % 4 = 0
  | .pix _ o => o < cfg.planeBytes
  | .alp _ o => o < cfg.planeBytes
  | .sel _ o => o < cfg.planeBytes
  | .unmapped => True
  | _ => a % 4 = 0

theorem locateRegister_fits (o : Nat) : (locateRegister cfg o).fits o := by
  unfold locateRegister
  by_cases h4 : o % 4 = 0
  · rw [if_neg (not_not_intro h4)]
    iterate 7 (split; · exact h4)
    split
    · split <;> exact h4
    · split
      · next hk => exact ⟨hk.2, h4⟩
      · trivial
  · rw [if_pos h4]; trivial

theorem locatePlane_fits {mk : SlotNo cfg → Nat → Loc cfg} {a : Nat}
    (hmk : ∀ t o, o < cfg.planeBytes → (mk t o).fits a) (t off : Nat) : (locatePlane mk t off).fits a := by
  unfold locatePlane
  split_ifs with _ ho
  · exact hmk _ _ ho
  · trivial
  · trivial

theorem locate_fits (a : Word) : (locate cfg a).fits a.toNat := by
  unfold locate
  simp only
  split
  · split
    · exact locateRegister_fits _
    · trivial
  · split_ifs with _ ho
    · exact ⟨by omega, by omega⟩
    · trivial
    · trivial
  · exact locatePlane_fits (mk := .pix) (fun _ _ h => h) _ _
  · exact locatePlane_fits (mk := .alp) (fun _ _ h => h) _ _
  · exact locatePlane_fits (mk := .sel) (fun _ _ h => h) _ _
  · trivial

/-- A location outside the planes has an address that is a multiple of 4. -/
theorem aligned_of_locate {a : Word} (hu : locate cfg a ≠ .unmapped) (hp : (locate cfg a).isPlane = false) :
    a.toNat % 4 = 0 := by
  have h := locate_fits (cfg := cfg) a
  cases hl : locate cfg a <;> rw [hl] at h hu hp
  case kram => exact h.2
  case pal => exact h.2
  case pix => cases hp
  case alp => cases hp
  case sel => cases hp
  case unmapped => exact absurd rfl hu
  all_goals exact h

/-- A 4-byte access of a location outside the planes is legal (20_memory.md R71, R72). -/
theorem legal_four {a : Word} {l : Loc cfg} (hl : locate cfg a = l) (hu : l ≠ .unmapped) (hp : l.isPlane = false) :
    legal cfg a .four = true := by
  subst hl
  simp [legal, aligned_of_locate hu hp, hu, hp, Width.bytes]

/-- A legal read gives the location's value, unless a command in progress makes it unspecified (R79). -/
theorem memRead_of_legal {s : State cfg} {a : Word} {n : Width} (h : legal cfg a n = true)
    (hb : s.busy = true → (locate cfg a).busyUnspecified = false) : memRead s a n = readLoc s n (locate cfg a) := by
  cases hs : s.busy with
  | false => simp [memRead, h, hs]
  | true => simp [memRead, h, hs, hb hs]

/-- A legal write reaches its location, unless a command in progress makes it dropped (R78). -/
theorem hostWrite_of_legal {s : State cfg} {a : Word} {n : Width} (v : Word) (h : legal cfg a n = true)
    (hb : s.busy = true → (locate cfg a).busyDropped = false) :
    hostWrite s a n v = writeLoc s n v (locate cfg a) := by
  cases hs : s.busy with
  | false => simp [hostWrite, h, hs]
  | true => simp [hostWrite, h, hs, hb hs]

/-- A write of STATUS as one update of DONE and HAZ (10_state.md R27). -/
theorem writeStatus_eq (s : State cfg) (v : Word) :
    writeStatus s v =
      { s with
        done := if v.getLsbD 1 then false else s.done
        haz := if v.getLsbD 3 then false else s.haz } := by
  unfold writeStatus State.acknowledge
  cases v.getLsbD 1 <;> cases v.getLsbD 3 <;> rfl

/-- No write but that of CTRL starts or ends a command. -/
theorem job_writeLoc (s : State cfg) (n : Width) (v : Word) {l : Loc cfg} (h : l ≠ .ctrl) :
    (writeLoc s n v l).job = s.job := by
  cases l with
  | ctrl => exact absurd rfl h
  | status => simp only [writeLoc, writeStatus_eq]
  | _ => rfl

/-- A register that a running command leaves readable reads as its value in every state (R79). -/
theorem memRead_register (s : State cfg) {a : Word} {l : Loc cfg} (hl : locate cfg a = l) (hu : l ≠ .unmapped)
    (hb : l.busyUnspecified = false) : memRead s a .four = readLoc s .four l := by
  have hp : l.isPlane = false := by
    cases l
    case pix => cases hb
    case alp => cases hb
    case sel => cases hb
    all_goals rfl
  rw [memRead_of_legal (legal_four hl hu hp) fun _ => hl ▸ hb, hl]

/-- What a 4-byte write outside the planes reads back as with no command in progress: the location's value in the
written state. -/
theorem memRead_hostWrite {s : State cfg} {a : Word} {l : Loc cfg} (v : Word) (hl : locate cfg a = l)
    (hu : l ≠ .unmapped) (hp : l.isPlane = false) (hs : s.busy = false) :
    memRead (hostWrite s a .four v) a .four = readLoc (writeLoc s .four v l) .four l := by
  have h := legal_four hl hu hp
  rw [hostWrite_of_legal v h (by simp [hs]), hl, memRead_of_legal h, hl]
  intro hb
  by_cases hc : l = .ctrl
  · rw [hl, hc]; rfl
  · simp [State.busy, job_writeLoc s .four v hc, busy_eq_false.mp hs] at hb

theorem locate_cmd (j : Fin 8) : locate .default (BitVec.ofNat 32 (0x020 + 4 * j.val)) = .cmd j := by
  revert j; decide

theorem locate_sdim (i : SlotNo) : locate .default (BitVec.ofNat 32 (0x100 + 16 * i.val)) = .sdim i := by
  revert i; decide

theorem locate_sfmt (i : SlotNo) : locate .default (BitVec.ofNat 32 (0x104 + 16 * i.val)) = .sfmt i := by
  revert i; decide

theorem locate_sbox0 (i : SlotNo) : locate .default (BitVec.ofNat 32 (0x108 + 16 * i.val)) = .sbox0 i := by
  revert i; decide

theorem locate_sbox1 (i : SlotNo) : locate .default (BitVec.ofNat 32 (0x10C + 16 * i.val)) = .sbox1 i := by
  revert i; decide

theorem locate_kram {n : Nat} (hn : n < 225) :
    locate .default (BitVec.ofNat 32 (0x800 + 4 * n)) = .kram n := by
  have ha : (BitVec.ofNat 32 (0x800 + 4 * n)).toNat = 0x800 + 4 * n := by
    rw [BitVec.toNat_ofNat]; omega
  have hregion : (0x800 + 4 * n) / 2 ^ 28 = 0 := by omega
  have hbelow : ∀ k, k < 0x800 → 0x800 + 4 * n ≠ k := by omega
  have hcmd : ¬ 0x800 + 4 * n < 0x040 := by omega
  have hslot : ¬ (0x800 + 4 * n - 0x100) / 0x10 < 8 := by omega
  simp only [locate, ha, hregion, locateRegister]
  simp [hbelow, hcmd, hslot, kramSize, hn, show 0x800 + 4 * n < 0x1000 by omega, show (0x800 + 4 * n) % 4 = 0 by omega]

theorem locate_pal (i : SlotNo) {n : Nat} (hn : n < 256) :
    locate .default (BitVec.ofNat 32 (0x10000000 + i.val * 2 ^ 24 + 4 * n)) = .pal i n := by
  have hi : i.val < 8 := i.isLt
  have ha : (BitVec.ofNat 32 (0x10000000 + i.val * 2 ^ 24 + 4 * n)).toNat = 0x10000000 + i.val * 2 ^ 24 + 4 * n := by
    rw [BitVec.toNat_ofNat]; omega
  have hregion : (0x10000000 + i.val * 2 ^ 24 + 4 * n) / 2 ^ 28 = 1 := by omega
  have hslot : (0x10000000 + i.val * 2 ^ 24 + 4 * n) / 2 ^ 24 % 16 = i.val := by omega
  have hoff : (0x10000000 + i.val * 2 ^ 24 + 4 * n) % 2 ^ 24 = 4 * n := by omega
  simp only [locate, ha, hregion, hslot, hoff]
  simp [show 4 * n < 0x400 by omega]


/-! ### Words and their fields -/

/-- The bits of STATUS (10_state.md R27). -/
theorem getLsbD_statusWord (s : State cfg) {k : Nat} (hk : k < 32) :
    (statusWord s).getLsbD k =
      if k = 0 then s.busy else if k = 1 then s.done else if k = 2 then s.cancelled else if k = 3 then s.haz
      else if 8 ≤ k ∧ k < 12 then s.err.code.getLsbD (k - 8) else false := by
  simp only [statusWord, BitVec.getLsbD_append, BitVec.getLsbD_ofBool]
  interval_cases k <;> simp

/-- The bits of CTRL (10_state.md R26). -/
theorem getLsbD_ctrlWord (s : State cfg) {k : Nat} (hk : k < 32) :
    (ctrlWord s).getLsbD k = if k = 1 then s.cancel else if k = 2 then s.ie else false := by
  simp only [ctrlWord, BitVec.getLsbD_append, BitVec.getLsbD_ofBool]
  interval_cases k <;> simp

/-- A field of a word is determined by the word's bits. -/
theorem extractLsb'_eq_of_bits {w : Word} {lo len : Nat} {f : BitVec len}
    (h : ∀ k, k < len → w.getLsbD (lo + k) = f.getLsbD k) : w.extractLsb' lo len = f :=
  BitVec.eq_of_getLsbD_eq fun k hk => by
    rw [BitVec.getLsbD_extractLsb', h k hk]; simp [hk]

theorem ctrlWord_reserved (s : State cfg) : (ctrlWord s).extractLsb' 3 29 = 0#29 :=
  extractLsb'_eq_of_bits fun k hk => by
    rw [getLsbD_ctrlWord s (by omega), if_neg (by omega), if_neg (by omega), BitVec.getLsbD_zero]

/-- Above bit 3 STATUS holds nothing but the error code in [11:8]. -/
theorem getLsbD_statusWord_of_le (s : State cfg) {k : Nat} (hk : k < 32) (h4 : 4 ≤ k) :
    (statusWord s).getLsbD k = if 8 ≤ k ∧ k < 12 then s.err.code.getLsbD (k - 8) else false := by
  rw [getLsbD_statusWord s hk, if_neg (by omega), if_neg (by omega), if_neg (by omega), if_neg (by omega)]

theorem statusWord_reserved_low (s : State cfg) : (statusWord s).extractLsb' 4 4 = 0#4 :=
  extractLsb'_eq_of_bits fun k hk => by
    rw [getLsbD_statusWord_of_le s (by omega) (by omega), if_neg (by omega), BitVec.getLsbD_zero]

theorem statusWord_err (s : State cfg) : (statusWord s).extractLsb' 8 4 = s.err.code :=
  extractLsb'_eq_of_bits fun k hk => by
    rw [getLsbD_statusWord_of_le s (by omega) (by omega), if_pos (by omega), Nat.add_sub_cancel_left]

theorem statusWord_reserved_high (s : State cfg) : (statusWord s).extractLsb' 12 20 = 0#20 :=
  extractLsb'_eq_of_bits fun k hk => by
    rw [getLsbD_statusWord_of_le s (by omega) (by omega), if_neg (by omega), BitVec.getLsbD_zero]

/-- The bits of an error code write its number (60_exceptions.md R280). -/
theorem toNat_code (e : ErrCode) : e.code.toNat = errNumber e := by cases e <;> rfl

/-- A word written to a register of two halves reads back. -/
theorem halves_append (v : Word) : v.extractLsb' 16 16 ++ v.extractLsb' 0 16 = v := by
  rw [BitVec.extractLsb'_append_extractLsb'_eq_extractLsb' (by rfl)]
  exact BitVec.extractLsb'_eq_self

@[simp] theorem Slot.sdim_withSdim (t : Slot) (v : Word) : (t.withSdim v).sdim = v := halves_append v
@[simp] theorem Slot.sbox0_withSbox0 (t : Slot) (v : Word) : (t.withSbox0 v).sbox0 = v := halves_append v
@[simp] theorem Slot.sbox1_withSbox1 (t : Slot) (v : Word) : (t.withSbox1 v).sbox1 = v := halves_append v

/-- SFMT keeps the bits of its four fields (10_state.md R39). -/
@[simp] theorem Slot.sfmt_withSfmt (t : Slot) (v : Word) : (t.withSfmt v).sfmt = v &&& 0x01FF0113#32 := by
  apply BitVec.eq_of_getLsbD_eq
  intro k hk
  simp only [Slot.sfmt, Slot.withSfmt, BitVec.getLsbD_append, BitVec.getLsbD_ofBool, BitVec.getLsbD_extractLsb',
    BitVec.getLsbD_and]
  interval_cases k <;> simp

/-- A palette entry keeps the three channels of the word written (20_memory.md R64). -/
theorem colorWord_rgbArg (v : Word) : colorWord (rgbArg v) = v &&& 0x00FFFFFF#32 := by
  apply BitVec.eq_of_getLsbD_eq
  intro k hk
  simp only [colorWord, rgbArg, BitVec.getLsbD_append, BitVec.getLsbD_extractLsb', BitVec.getLsbD_and]
  interval_cases k <;> simp

/-- A KRAM entry keeps the low half of the word written (10_state.md R35). -/
theorem setWidth_loHalf (v : Word) : (v.extractLsb' 0 16).setWidth 32 = v &&& 0x0000FFFF#32 := by
  apply BitVec.eq_of_getLsbD_eq
  intro k hk
  simp only [BitVec.getLsbD_extractLsb', BitVec.getLsbD_setWidth, BitVec.getLsbD_and]
  interval_cases k <;> simp

@[simp] theorem Slot.palEntry_withPal (t : Slot) (n : Nat) (v : Word) : (t.withPal n v).palEntry n = rgbArg v := by
  simp [Slot.palEntry, Slot.withPal]

@[simp] theorem cmdWordAt_cmdWithWord (c : CmdBlock) (j : Fin 8) (v : Word) : cmdWordAt (cmdWithWord c j v) j = v := by
  fin_cases j <;> rfl

/-- CTRL reads CANCEL and IE as written, whatever else the write does, unless it is a soft reset (10_state.md R26). -/
theorem ctrlWord_writeCtrl (s : State cfg) {v : Word} (h : v.getLsbD 31 = false) :
    ctrlWord (writeCtrl s v) = v &&& 0x00000006#32 := by
  have hfields : (writeCtrl s v).cancel = v.getLsbD 1 ∧ (writeCtrl s v).ie = v.getLsbD 2 := by
    unfold writeCtrl
    simp only [h, Bool.false_eq_true, if_false]
    cases v.getLsbD 0 <;> cases s.busy <;> exact ⟨rfl, rfl⟩
  obtain ⟨hcancel, hie⟩ := hfields
  apply BitVec.eq_of_getLsbD_eq
  intro k hk
  rw [getLsbD_ctrlWord _ hk, hcancel, hie, BitVec.getLsbD_and]
  interval_cases k <;> simp

/-- STATUS loses DONE and HAZ where 1 is written to them (10_state.md R27). -/
theorem statusWord_writeStatus (s : State cfg) (v : Word) :
    statusWord (writeStatus s v) = statusWord s &&& ~~~(v &&& 0x0000000A#32) := by
  rw [writeStatus_eq]
  apply BitVec.eq_of_getLsbD_eq
  intro k hk
  rw [BitVec.getLsbD_and, BitVec.getLsbD_not, BitVec.getLsbD_and, getLsbD_statusWord _ hk, getLsbD_statusWord _ hk]
  interval_cases k <;> simp [State.busy, Bool.and_comm]

/-! ### The statements about single registers -/

/-- Settles O12: a write of STATUS reaches the register in every state, and there it is one update. -/
theorem acknowledgeClearsDoneOnly : Obligations.AcknowledgeClearsDoneOnly := by
  intro s v
  have hl : locate .default 0x008#32 = .status := by decide
  rw [hostWrite_of_legal v (legal_four hl (by decide) rfl) (by rw [hl]; exact fun _ => rfl), hl]
  exact writeStatus_eq s v

/-- Settles O56: the words' bits in every state, and each writable location's value in the written state. -/
theorem registersReadBack : Obligations.RegistersReadBack := by
  intro s v i j n
  have hctrl : locate .default 0x004#32 = .ctrl := by decide
  have hstatus : locate .default 0x008#32 = .status := by decide
  have hprogress : locate .default 0x00C#32 = .progress := by decide
  rw [memRead_register s hctrl (by decide) rfl, memRead_register s hstatus (by decide) rfl,
    memRead_register s hprogress (by decide) rfl]
  refine ⟨?ctrl, ?status, ?progress, fun hs => ?back⟩
  case ctrl =>
    exact ⟨getLsbD_ctrlWord s (by decide), getLsbD_ctrlWord s (by decide), getLsbD_ctrlWord s (by decide),
      ctrlWord_reserved s⟩
  case status =>
    exact ⟨getLsbD_statusWord s (by decide), getLsbD_statusWord s (by decide), getLsbD_statusWord s (by decide),
      getLsbD_statusWord s (by decide), statusWord_reserved_low s, by rw [← toNat_code, ← statusWord_err s]; rfl,
      statusWord_reserved_high s⟩
  case progress => exact BitVec.toNat_setWidth_of_le (by decide)
  case back =>
    intro back
    have readBack : ∀ {a : Word} {l : Loc .default}, locate .default a = l → l ≠ .unmapped → l.isPlane = false →
        back a = readLoc (writeLoc s .four v l) .four l := fun hl hu hp => memRead_hostWrite v hl hu hp hs
    refine ⟨?cmd, ?sdim, ?sfmt, ?sbox0, ?sbox1, fun hn => ?kram, fun hn => ?pal, fun hv => ?ctrl, ?status, ?id,
      ?progress, ?result, ?caps⟩
    case cmd => rw [readBack (locate_cmd j) nofun rfl]; exact cmdWordAt_cmdWithWord _ _ _
    case sdim => rw [readBack (locate_sdim i) nofun rfl]; simp [readLoc, writeLoc]
    case sfmt => rw [readBack (locate_sfmt i) nofun rfl]; simp [readLoc, writeLoc]
    case sbox0 => rw [readBack (locate_sbox0 i) nofun rfl]; simp [readLoc, writeLoc]
    case sbox1 => rw [readBack (locate_sbox1 i) nofun rfl]; simp [readLoc, writeLoc]
    case kram => rw [readBack (locate_kram hn) nofun rfl]; simp [readLoc, writeLoc, State.coef, setWidth_loHalf]
    case pal => rw [readBack (locate_pal i hn) nofun rfl]; simp [readLoc, writeLoc, colorWord_rgbArg]
    case ctrl => rw [readBack hctrl nofun rfl]; exact ctrlWord_writeCtrl s hv
    case status => rw [readBack hstatus nofun rfl]; exact statusWord_writeStatus s v
    case id => exact readBack (by decide : locate .default 0x000#32 = .id) nofun rfl
    case progress => exact readBack hprogress nofun rfl
    case result => exact readBack (by decide : locate .default 0x010#32 = .result) nofun rfl
    case caps =>
      have hcaps : locate .default 0x014#32 = .caps := by decide
      exact (readBack hcaps nofun rfl).trans (by decide : regCaps .default = 0x00180F08#32)

/-- Settles O5: irq is the two bits' conjunction, and each operation named sets DONE or leaves irq's fields alone. -/
theorem irqIsDoneGatedByEnable : Obligations.IrqIsDoneGatedByEnable := by
  intro s v
  refine ⟨?_, fun hv => ?_, rfl, rfl, rfl, fun code c => Bool.true_and _, rfl⟩
  · rw [getLsbD_statusWord s (by decide), getLsbD_ctrlWord s (by decide)]; rfl
  · rw [writeStatus_eq]; simp [State.irq, hv]

/-! ### Reset -/

/-- The states that power-on makes: the registers of reset over blank slots, whatever the unknown memory contents are
called and whatever the host's program is. -/
def State.Fresh (r : State) : Prop :=
  ∃ gen kramGen host replies draws, r = { State.resetOf .default with
    slots := blankSlots .default gen, kramGen := kramGen, host := host, replies := replies, draws := draws }

theorem reset_fresh : State.reset.Fresh := ⟨_, _, _, _, _, rfl⟩

theorem powerOn_fresh (s : State) : s.powerOn.Fresh := ⟨_, _, _, _, _, rfl⟩

theorem State.Fresh.slot {r : State} (h : r.Fresh) (i : SlotNo) : ∃ gen, r.slot i = Slot.blank gen := by
  obtain ⟨gen, _, _, _, _, rfl⟩ := h
  exact ⟨gen + i.val, by simp [State.slot, blankSlots]⟩

/-- CTRL reads 0 where CANCEL and IE are clear. -/
theorem ctrlWord_eq_zero {s : State cfg} (hc : s.cancel = false) (hi : s.ie = false) : ctrlWord s = 0#32 := by
  simp only [ctrlWord, hc, hi]; rfl

/-- STATUS reads 0 where each of its fields is clear. -/
theorem statusWord_eq_zero {s : State cfg} (hb : s.job = none) (hd : s.done = false) (hc : s.cancelled = false)
    (hh : s.haz = false) (he : s.err = .ok) : statusWord s = 0#32 := by
  simp only [statusWord, State.busy, hb, hd, hc, hh, he]; rfl

/-- A blank slot has descriptor words 0 and is not valid. -/
theorem blank_descriptor (gen : Nat) :
    (Slot.blank gen).sdim = 0#32 ∧ (Slot.blank gen).sfmt = 0#32 ∧ (Slot.blank gen).sbox0 = 0#32 ∧
      (Slot.blank gen).sbox1 = 0#32 ∧ (Slot.blank gen).valid .default = false := by
  simp only [Slot.sdim, Slot.sfmt, Slot.sbox0, Slot.sbox1, Slot.blank]
  exact ⟨rfl, rfl, rfl, rfl, rfl⟩

theorem zeroBlock_word (i : Fin 8) : cmdWordAt zeroBlock i = 0#32 := by
  fin_cases i <;> rfl

/-- Settles O1: power-on reset and the reset state are both fresh. -/
theorem powerOnResetValues : Obligations.PowerOnResetValues := by
  intro s r hr
  have hfresh : r.Fresh := by
    rcases List.mem_pair.mp hr with rfl | rfl
    · exact reset_fresh
    · exact powerOn_fresh s
  have hslots := hfresh.slot
  obtain ⟨_, _, _, _, _, rfl⟩ := hfresh
  refine ⟨rfl, rfl, ctrlWord_eq_zero rfl rfl, statusWord_eq_zero rfl rfl rfl rfl rfl, rfl, rfl, zeroBlock_word,
    fun i => ?_, fun _ => rfl, fun i n => ?_, rfl, rfl⟩
  · obtain ⟨gen, hi⟩ := hslots i
    simp only [readLoc, hi]
    exact blank_descriptor gen
  · obtain ⟨gen, hi⟩ := hslots i
    rw [hi]
    exact ⟨rfl, rfl, rfl, rfl⟩

end Sys2Proof.Machine

/-! Steps (O9), and everything a command can do: its checks fail, or the engine takes the turn of its body. -/

namespace Sys2Proof.Machine

variable {cfg : Config}

/-! ### Whose turn it is -/

theorem turn_engine {s : State cfg} {j : Job} (hj : s.job = some j) (hw : ∀ e ∈ s.host.head?, 0 < e.wait) :
    s.turn = .engine j := by
  unfold State.turn
  cases hh : s.host with
  | nil => simp [hj]
  | cons e r =>
    have : 0 < e.wait := hw e (by simp [hh])
    simp [hj, show e.wait ≠ 0 by omega]

theorem turn_host {s : State cfg} {e : HostEvent} {r : List HostEvent} (hh : s.host = e :: r)
    (h : s.job = none ∨ e.wait = 0) : s.turn = .host e r := by
  unfold State.turn
  cases hj : s.job with
  | none => simp [hh]
  | some j => simp [hh, h.resolve_left (by simp [hj])]

theorem turn_idle {s : State cfg} (hh : s.host = []) (hj : s.job = none) : s.turn = .idle := by
  simp [State.turn, hh, hj]

/-- Settles O9: the three kinds of turn. -/
theorem stepRunsTheLatchedCommand : Obligations.StepRunsTheLatchedCommand := by
  intro s
  refine ⟨fun j i hj hw hd => ?_, fun e rest hh hw => ?_, fun hh hj => ?_⟩
  · simp only [step, stepBy, turn_engine hj hw, hd]
  · simp only [step, stepBy, turn_host hh hw, State.hostTurn]
    cases e.act <;> rfl
  · simp only [step, stepBy, turn_idle hh hj]

/-! ### What each command does: its checks fail, or the engine takes its body's turn -/

/-- The completion of a command whose checks fail with `code` (60_exceptions.md R281). -/
def State.reject (s : State) (i : Instr) (code : ErrCode) : State :=
  if isThreshold i then s.failThreshold code else s.fail code

/-- The bodies the engine runs, command by command, once the command's checks in state `s` have passed. -/
inductive CommandBody (s : State) : Instr → Body .default → Prop
  | rows {i sa sb params a d} (out : Nat → Nat → Nat → Nat) (hi : RowPolled sa sb i)
      (hc : s.sameFormat sa sb params = .ok (a, d)) :
      CommandBody s i (sameFormatBody a d (s.slot a).scanBox.rows (s.slot a).rowScope out)
  | columns {i sa sb params a d} (w : List F64) (which : Nat → Nat → Bool) (hi : ColumnPolled sa sb i)
      (hc : s.sameFormat sa sb params = .ok (a, d)) : CommandBody s i (columnBody s a d w which)
  | fft2 {sa sb sc sd inv pow2 mag p} (re im : Nat → Nat → Nat) (hc : s.fftPlan sa sb sc sd pow2 = .ok p) :
      CommandBody s (.fft2 sa sb sc sd inv pow2 mag)
        (wholeBody fun s' => (s'.writeTarget p.tR p.w p.h re).writeTarget p.tI p.w p.h im)
  | optthresh {sa sb method box a m} (r : Word) (hc : s.optCheck sa sb method = .ok (a, m)) :
      CommandBody s (.optthresh sa sb method box) (wholeBody fun s' => { s' with result := r })
  | adaptthresh {sa sb sc method boxSize bias balance a m d} (r : Word) (fails : Nat → Bool) (f : Nat → Nat → Bool)
      (hc : s.adaptCheck sa sb sc method balance = .ok (a, m, d)) :
      CommandBody s (.adaptthresh sa sb sc method boxSize bias balance)
        { units := cellCount (s.slot a).width (cellSide boxSize) * cellCount (s.slot a).height (cellSide boxSize)
          fails := fails
          stopped := fun _ s' => { s' with result := r }
          finished := fun s' => { s' with result := r }.withSlot d
            (freshBw (s'.slot d) (s.slot a).width (s.slot a).height f) }
  | threshmask {sa sb sc a m d} (f : Nat → Nat → Bool) (hc : s.maskCheck sa sb sc = .ok (a, m, d)) :
      CommandBody s (.threshmask sa sb sc) (wholeBody fun s' =>
        s'.withSlot d (freshBw (s'.slot d) (s.slot a).width (s.slot a).height f))
  | floodfill {sa track x0 y0 color index tolerance opacity level a} (hc : s.fillCheck sa index = .ok a) :
      CommandBody s (.floodfill sa track x0 y0 color index tolerance opacity level) (wholeBody fun s' =>
        s'.withSlot a (fillSlot (s'.slot a) track x0 y0 color index tolerance opacity level))
  | trace {sa sb target traceColor a d} (f : Nat → Nat → Color) (hc : s.traceCheck sa sb = .ok (a, d)) :
      CommandBody s (.trace sa sb target traceColor) (wholeBody fun s' =>
        s'.withSlot d (freshRgb24 .default (s'.slot d) (s.slot a).width (s.slot a).height f))

/-- What `exec i s` can answer. -/
def Outcomes (i : Instr) (s : State) (o : Host.Outcome State Fault Refusal) : Prop :=
  (∃ code, o = .next (s.reject i code)) ∨ ∃ b, CommandBody s i b ∧ o = .next (runBody b s)

theorem rowCommand_outcomes {i : Instr} {sa sb : SlotArg} (hi : RowPolled sa sb i) (s : State) (params : Bool)
    (out : Slot → Nat → Nat → Nat → Nat) : Outcomes i s (rowCommand s sa sb params out) := by
  have hr : ∀ code, s.reject i code = s.fail code := by cases hi <;> exact fun _ => rfl
  rcases rowCommand_cases s sa sb params out with ⟨e, _, h⟩ | ⟨a, d, hc, h⟩
  · exact .inl ⟨e, by rw [h, hr]⟩
  · exact .inr ⟨_, .rows _ hi hc, h⟩

/-- Everything a command can do: complete with the code of a check that fails, or take the turn of its body. -/
theorem exec_outcomes (i : Instr) (s : State) : Outcomes i s (exec i s) := by
  cases i with
  | filter sa sb k factor bias =>
    simp only [exec, execFilter]
    exact rowCommand_outcomes (.filter k factor bias) s _ _
  | erode sa sb k =>
    simp only [exec, execErode]
    exact rowCommand_outcomes (.erode k) s _ _
  | dilate sa sb k =>
    simp only [exec, execDilate]
    exact rowCommand_outcomes (.dilate k) s _ _
  | edge sa sb k =>
    simp only [exec, execEdge]
    exact rowCommand_outcomes (.edge k) s _ _
  | contour sa sb =>
    simp only [exec, execContour]
    exact rowCommand_outcomes .contour s _ _
  | unsharp sa sb radius amount threshold =>
    simp only [exec, execUnsharp]
    exact rowCommand_outcomes (.unsharp radius amount threshold) s _ _
  | median sa sb k =>
    simp only [exec, execMedian]
    exact rowCommand_outcomes (.median k) s _ _
  | gaussblur sa sb radius =>
    simp only [exec, execGaussblur]
    split
    · next e _ => exact .inl ⟨e, rfl⟩
    · next hc => exact .inr ⟨_, .columns _ _ (.gaussblur radius) hc, rfl⟩
  | selblur sa sb radius threshold =>
    simp only [exec, execSelblur]
    split
    · next e _ => exact .inl ⟨e, rfl⟩
    · next hc => exact .inr ⟨_, .columns _ _ (.selblur radius threshold) hc, rfl⟩
  | fft2 sa sb sc sd inv pow2 mag =>
    simp only [exec, execFft2]
    split
    · next e _ => exact .inl ⟨e, rfl⟩
    · next hc => exact .inr ⟨_, .fft2 _ _ hc, rfl⟩
  | optthresh sa sb method box =>
    simp only [exec, execOptthresh]
    split
    · next e _ => exact .inl ⟨e, rfl⟩
    · next hc =>
      split
      · exact .inl ⟨.noThreshold, rfl⟩
      · exact .inr ⟨_, .optthresh _ hc, rfl⟩
  | adaptthresh sa sb sc method boxSize bias balance =>
    simp only [exec, execAdaptthresh]
    split
    · next e _ => exact .inl ⟨e, rfl⟩
    · next hc =>
      split
      · exact .inl ⟨.noThreshold, rfl⟩
      · exact .inr ⟨_, .adaptthresh _ _ _ hc, rfl⟩
  | threshmask sa sb sc =>
    simp only [exec, execThreshmask]
    split
    · next e _ => exact .inl ⟨e, rfl⟩
    · next hc => exact .inr ⟨_, .threshmask _ hc, rfl⟩
  | floodfill sa track x0 y0 color index tolerance opacity level =>
    simp only [exec, execFloodfill]
    split
    · next e _ => exact .inl ⟨e, rfl⟩
    · next hc => exact .inr ⟨_, .floodfill hc, rfl⟩
  | trace sa sb target traceColor =>
    simp only [exec, execTrace]
    split
    · next e _ => exact .inl ⟨e, rfl⟩
    · next hc => exact .inr ⟨_, .trace _ hc, rfl⟩

end Sys2Proof.Machine

/-! What the bodies of the commands leave: memories in canonical form, and nothing changed but slots and RESULT. -/

namespace Sys2Proof.Machine

variable {cfg : Config}

/-! ### What the checks of each command establish -/

/-- Checks in a row that answer a value: the last of them holds, and the value is the one it guards. -/
theorem of_guards_ok {ε α : Type} {a b c : Bool} {e₁ e₂ e₃ : ε} {p p' : α}
    (h : (if a then Except.error e₁ else if b then .error e₂ else if c then .ok p' else .error e₃) = .ok p) :
    c = true ∧ p' = p := by
  split_ifs at h with _ _ hc
  exact ⟨hc, Except.ok.inj h⟩

theorem fftPlan_ok {s : State cfg} {sa sb sc sd : SlotArg} {pow2 : Bool} {p : FftPlan cfg}
    (h : s.fftPlan sa sb sc sd pow2 = .ok p) : p.w * p.h ≤ cfg.planeBytes := by
  unfold State.fftPlan at h
  split at h
  · split at h
    · cases h
    · obtain ⟨hfits, rfl⟩ := of_guards_ok h
      simp only [Bool.and_eq_true, decide_eq_true_eq] at hfits
      exact hfits.2
  · cases h

theorem adaptCheck_ok {s : State cfg} {sa sb sc : SlotArg} {method : BitVec 3} {balance : Word} {a d : SlotNo cfg}
    {m : Option (SlotNo cfg)} (h : s.adaptCheck sa sb sc method balance = .ok (a, m, d)) : s.source sa = .ok a := by
  unfold State.adaptCheck at h
  split at h
  · next ha _ =>
    split at h
    · cases h
    · split at h
      · cases h
      · split_ifs at h; cases h; exact ha
  · cases h

theorem maskCheck_ok {s : State cfg} {sa sb sc : SlotArg} {a m d : SlotNo cfg}
    (h : s.maskCheck sa sb sc = .ok (a, m, d)) : s.source sa = .ok a := by
  unfold State.maskCheck at h
  split at h
  · next ha _ =>
    split at h
    · cases h
    · split_ifs at h; cases h; exact ha
  · cases h

theorem fillCheck_ok {s : State cfg} {sa : SlotArg} {index : Byte} {a : SlotNo cfg}
    (h : s.fillCheck sa index = .ok a) : s.source sa = .ok a := by
  unfold State.fillCheck at h
  split at h
  · cases h
  · next ha => split_ifs at h; cases h; exact ha

/-! ### The canonical form of a slot's memories -/

theorem Slot.memoriesWf_iff {t : Slot} :
    t.memoriesWf = true ↔ memWf 256 t.pal = true ∧ memWf Config.default.planeBytes t.pix = true ∧
      memWf Config.default.planeBytes t.alp = true ∧ memWf Config.default.planeBytes t.sel = true := by
  simp only [Slot.memoriesWf, Bool.and_eq_true, and_assoc]

/-- The image of a valid slot lies in its pixel plane (10_state.md R41). -/
theorem extent_le_of_valid {t : Slot} (h : t.valid cfg = true) : t.extent ≤ cfg.planeBytes := by
  simp only [Slot.valid, Bool.and_eq_true, decide_eq_true_eq] at h
  exact h.1.2

theorem area_le_extent (t : Slot) : t.area ≤ t.extent := by
  unfold Slot.extent Slot.bpb
  split <;> omega

theorem area_le_of_valid {t : Slot} (h : t.valid cfg = true) : t.area ≤ cfg.planeBytes :=
  (area_le_extent t).trans (extent_le_of_valid h)

theorem memoriesWf_blank (gen : Nat) : (Slot.blank gen).memoriesWf = true := rfl

theorem memoriesWf_unspecSlot (draw : Nat) : (unspecSlot draw).memoriesWf = true := rfl

theorem memoriesWf_paint {t : Slot} {which : Nat → Nat → Bool} {out : Nat → Nat → Nat → Nat}
    (ht : t.memoriesWf = true) (he : t.extent ≤ Config.default.planeBytes) : (t.paint which out).memoriesWf = true := by
  obtain ⟨hpal, hpix, halp, hsel⟩ := Slot.memoriesWf_iff.mp ht
  exact Slot.memoriesWf_iff.mpr ⟨hpal, memPatch_wf he _ hpix, halp, hsel⟩

theorem memoriesWf_copyImage {t d : Slot} (ht : t.valid .default = true) (hd : d.memoriesWf = true) :
    (copyImage t d).memoriesWf = true := by
  obtain ⟨hpal, hpix, halp, hsel⟩ := Slot.memoriesWf_iff.mp hd
  refine Slot.memoriesWf_iff.mpr ⟨memFill_wf le_rfl _ hpal, memFill_wf (extent_le_of_valid ht) _ hpix, ?_, ?_⟩
  · unfold copyImage
    simp only
    split
    · exact memFill_wf (area_le_of_valid ht) _ halp
    · exact halp
  · unfold copyImage
    simp only
    split
    · exact memFill_wf (area_le_of_valid ht) _ hsel
    · exact hsel

theorem memoriesWf_freshGray8 {d : Slot} {w h : Nat} {f : Nat → Nat → Nat} (hd : d.memoriesWf = true)
    (hs : w * h ≤ Config.default.planeBytes) : (freshGray8 d w h f).memoriesWf = true := by
  obtain ⟨hpal, hpix, halp, hsel⟩ := Slot.memoriesWf_iff.mp hd
  exact Slot.memoriesWf_iff.mpr ⟨memFill_wf le_rfl _ hpal, memFill_wf hs _ hpix, halp, hsel⟩

theorem memoriesWf_freshBw {d : Slot} {w h : Nat} {f : Nat → Nat → Bool} (hd : d.memoriesWf = true)
    (hs : w * h ≤ Config.default.planeBytes) : (freshBw d w h f).memoriesWf = true := by
  obtain ⟨hpal, hpix, halp, hsel⟩ := Slot.memoriesWf_iff.mp hd
  exact Slot.memoriesWf_iff.mpr ⟨memFill_wf (by decide) _ hpal, memFill_wf hs _ hpix, halp, hsel⟩

theorem memoriesWf_freshRgb24 {d : Slot} {w h : Nat} {f : Nat → Nat → Color} (hd : d.memoriesWf = true) :
    (freshRgb24 .default d w h f).memoriesWf = true := by
  obtain ⟨hpal, hpix, halp, hsel⟩ := Slot.memoriesWf_iff.mp hd
  exact Slot.memoriesWf_iff.mpr ⟨hpal, memFill_wf (Nat.min_le_right _ _) _ hpix, halp, hsel⟩

theorem memoriesWf_fillPaint {t : Slot} {seen : List Pt} {color : Color} {index opacity : Byte}
    (ht : t.memoriesWf = true) (he : t.extent ≤ Config.default.planeBytes) :
    (fillPaint t seen color index opacity).memoriesWf = true := by
  unfold fillPaint
  split
  · exact ht
  · exact memoriesWf_paint ht he

theorem memoriesWf_trackSelection {t d : Slot} {seen : List Pt} {level : Byte} (hd : d.memoriesWf = true)
    (ha : t.area ≤ Config.default.planeBytes) : (trackSelection t d seen level).memoriesWf = true := by
  obtain ⟨hpal, hpix, halp, hsel⟩ := Slot.memoriesWf_iff.mp hd
  exact Slot.memoriesWf_iff.mpr ⟨hpal, hpix, halp, memPatch_wf ha _ hsel⟩

theorem memoriesWf_fillSlot {t : Slot} {track : Bool} {x0 y0 : BitVec 16} {color : Color}
    {index tolerance opacity level : Byte} (ht : t.memoriesWf = true) (hv : t.valid .default = true) :
    (fillSlot t track x0 y0 color index tolerance opacity level).memoriesWf = true := by
  unfold fillSlot
  split
  · exact ht
  · simp only
    split
    · exact memoriesWf_trackSelection (memoriesWf_fillPaint ht (extent_le_of_valid hv)) (area_le_of_valid hv)
    · exact memoriesWf_fillPaint ht (extent_le_of_valid hv)

theorem memoriesWf_withPal {t : Slot} {i : Nat} {v : Word} (ht : t.memoriesWf = true) (hi : i < 256) :
    (t.withPal i v).memoriesWf = true := by
  obtain ⟨hpal, hpix, halp, hsel⟩ := Slot.memoriesWf_iff.mp ht
  exact Slot.memoriesWf_iff.mpr ⟨memPut_wf _ hi hpal, hpix, halp, hsel⟩

/-- A store of n bytes inside a plane keeps its canonical form. -/
theorem planeStore_wf {m : List Host.Cell} {o size : Nat} {n : Width} (v : Word) (ho : o + n.bytes ≤ size)
    (hm : memWf size m = true) : memWf size (planeStore m o n v) = true := by
  cases n with
  | one => exact memPut_wf _ ho hm
  | two => exact memPut_wf _ ho (memPut_wf _ (by simp only [Width.bytes] at ho; omega) hm)
  | four =>
    simp only [Width.bytes] at ho
    exact memPut_wf _ ho (memPut_wf _ (by omega) (memPut_wf _ (by omega) (memPut_wf _ (by omega) hm)))

/-! ### The canonical form of the machine's memories -/

theorem State.memoryWf_iff {s : State} :
    s.memoryWf = true ↔ memWf (kramSize .default) s.kram = true ∧ ∀ i, (s.slot i).memoriesWf = true := by
  simp only [State.memoryWf, Bool.and_eq_true, List.all_eq_true, Vector.mem_toList_iff,
    Vector.mem_iff_getElem, State.slot]
  constructor
  · rintro ⟨hk, hs⟩
    exact ⟨hk, fun i => hs _ ⟨i.val, i.isLt, rfl⟩⟩
  · rintro ⟨hk, hs⟩
    refine ⟨hk, ?_⟩
    rintro _ ⟨i, hi, rfl⟩
    exact hs ⟨i, hi⟩

theorem memoryWf_slot {s : State} (h : s.memoryWf = true) (i : SlotNo) : (s.slot i).memoriesWf = true :=
  (State.memoryWf_iff.mp h).2 i

theorem memoryWf_withSlot {s : State} {i : SlotNo} {t : Slot} (h : s.memoryWf = true) (ht : t.memoriesWf = true) :
    (s.withSlot i t).memoryWf = true := by
  obtain ⟨hk, hs⟩ := State.memoryWf_iff.mp h
  refine State.memoryWf_iff.mpr ⟨hk, fun j => ?_⟩
  by_cases hj : j = i
  · subst hj; rwa [State.slot_withSlot_same]
  · rw [State.slot_withSlot_other s hj]; exact hs j

/-- The prepared destination of a same-format command whose checks pass: its memories, and the bytes of its image. -/
theorem prepared_wf {s : State} {sa sb : SlotArg} {params : Bool} {a d : SlotNo}
    (hc : s.sameFormat sa sb params = .ok (a, d)) (hs : s.memoryWf = true) :
    (s.prepared a d).memoriesWf = true ∧ (s.prepared a d).extent ≤ Config.default.planeBytes := by
  obtain ⟨-, -, hv, -, -⟩ := sameFormat_ok hc
  unfold State.prepared
  split
  · exact ⟨memoryWf_slot hs a, extent_le_of_valid hv⟩
  · exact ⟨memoriesWf_copyImage hv (memoryWf_slot hs d), extent_le_of_valid hv⟩

theorem memoryWf_writeTarget {s : State} {t : Option SlotNo} {w h : Nat} {f : Nat → Nat → Nat}
    (hs : s.memoryWf = true) (hw : w * h ≤ Config.default.planeBytes) : (s.writeTarget t w h f).memoryWf = true := by
  cases t with
  | none => exact hs
  | some i => exact memoryWf_withSlot hs (memoriesWf_freshGray8 (memoryWf_slot hs i) hw)

/-- A body that runs to its end leaves every memory in canonical form. -/
theorem CommandBody.memoryWf_finished {s : State} {i : Instr} {b : Body .default} (hb : CommandBody s i b)
    (hs : s.memoryWf = true) : (b.finished s).memoryWf = true := by
  cases hb with
  | rows out hi hc =>
    obtain ⟨hm, he⟩ := prepared_wf hc hs
    exact memoryWf_withSlot hs (memoriesWf_paint hm he)
  | columns w which hi hc =>
    obtain ⟨hm, he⟩ := prepared_wf hc hs
    exact memoryWf_withSlot hs (memoriesWf_paint hm he)
  | fft2 re im hc => exact memoryWf_writeTarget (memoryWf_writeTarget hs (fftPlan_ok hc)) (fftPlan_ok hc)
  | optthresh r hc => exact hs
  | adaptthresh r fails f hc =>
    exact memoryWf_withSlot (s := { s with result := r }) hs
      (memoriesWf_freshBw (memoryWf_slot hs _) (area_le_of_valid (source_ok (adaptCheck_ok hc)).2))
  | threshmask f hc =>
    exact memoryWf_withSlot hs
      (memoriesWf_freshBw (memoryWf_slot hs _) (area_le_of_valid (source_ok (maskCheck_ok hc)).2))
  | floodfill hc =>
    exact memoryWf_withSlot hs (memoriesWf_fillSlot (memoryWf_slot hs _) (source_ok (fillCheck_ok hc)).2)
  | trace f hc => exact memoryWf_withSlot hs (memoriesWf_freshRgb24 (memoryWf_slot hs _))

/-- So does one that is cancelled at a poll, whatever PROGRESS has come to. -/
theorem CommandBody.memoryWf_stopped {s : State} {i : Instr} {b : Body .default} (hb : CommandBody s i b)
    (hs : s.memoryWf = true) (k : Nat) (p : BitVec 8) : (b.stopped k { s with progress := p }).memoryWf = true := by
  cases hb with
  | rows out hi hc =>
    obtain ⟨hm, he⟩ := prepared_wf hc hs
    exact memoryWf_withSlot (s := { s with progress := p }) hs (memoriesWf_paint hm he)
  | columns w which hi hc =>
    obtain ⟨hm, he⟩ := prepared_wf hc hs
    exact memoryWf_withSlot (s := { s with progress := p }) hs (memoriesWf_paint hm he)
  | _ => exact hs

/-! ### What a body publishes -/

/-- From `s` to `t` nothing but the slots and RESULT changes, and RESULT only where the command is OPTTHRESH or
ADAPTHRESH (10_state.md R30, 40_common.md R137). -/
def Publishes (i : Instr) (s t : State) : Prop :=
  ∃ slots result, t = { s with slots := slots, result := result } ∧ (isThreshold i = false → result = s.result)

theorem publishes_refl (i : Instr) (s : State) : Publishes i s s := ⟨_, _, rfl, fun _ => rfl⟩

theorem publishes_withSlot {i : Instr} {s t : State} (h : Publishes i s t) (d : SlotNo) (v : Slot) :
    Publishes i s (t.withSlot d v) := by
  obtain ⟨slots, result, rfl, hr⟩ := h
  exact ⟨slots.set d v, result, rfl, hr⟩

theorem publishes_result {i : Instr} (hi : isThreshold i = true) (s : State) (r : Word) :
    Publishes i s { s with result := r } := ⟨_, r, rfl, by simp [hi]⟩

theorem publishes_writeTarget {i : Instr} {s u : State} (hp : Publishes i s u) (t : Option SlotNo) (w h : Nat)
    (f : Nat → Nat → Nat) : Publishes i s (u.writeTarget t w h f) := by
  cases t with
  | none => exact hp
  | some d => exact publishes_withSlot hp d _

theorem CommandBody.publishes_finished {s : State} {i : Instr} {b : Body .default} (hb : CommandBody s i b)
    (s' : State) : Publishes i s' (b.finished s') := by
  cases hb with
  | fft2 re im hc => exact publishes_writeTarget (publishes_writeTarget (publishes_refl _ s') _ _ _ _) _ _ _ _
  | optthresh r hc => exact publishes_result rfl s' r
  | adaptthresh r fails f hc => exact publishes_withSlot (publishes_result rfl s' r) _ _
  | _ => exact publishes_withSlot (publishes_refl _ s') _ _

theorem CommandBody.publishes_stopped {s : State} {i : Instr} {b : Body .default} (hb : CommandBody s i b) (k : Nat)
    (s' : State) : Publishes i s' (b.stopped k s') := by
  cases hb with
  | rows out hi hc => exact publishes_withSlot (publishes_refl _ s') _ _
  | columns w which hi hc => exact publishes_withSlot (publishes_refl _ s') _ _
  | adaptthresh r fails f hc => exact publishes_result rfl s' r
  | _ => exact publishes_refl _ s'

/-- Only ADAPTHRESH has units that fail (44_threshold.md R244). -/
theorem CommandBody.isThreshold_of_fails {s : State} {i : Instr} {b : Body .default} (hb : CommandBody s i b) {j : Nat}
    (hf : b.fails j = true) : isThreshold i = true := by
  cases hb with
  | adaptthresh r fails f hc => rfl
  | optthresh r hc => rfl
  | _ => cases hf

end Sys2Proof.Machine

/-! How a command's turn ends (O18), and the invariant (O2, O3). -/

namespace Sys2Proof.Machine

variable {cfg : Config}

/-! ### PROGRESS -/

/-- PROGRESS of a poll is a percentage (40_common.md R133). -/
theorem percent_le {i n : Nat} (h : i ≤ n) : (percent i n).toNat ≤ 100 := by
  have : 100 * i / n ≤ 100 := Nat.div_le_of_le_mul (by rw [Nat.mul_comm]; exact Nat.mul_le_mul_right 100 h)
  rw [percent, BitVec.toNat_ofNat]
  exact (Nat.mod_le _ _).trans this

/-- A command that has come to a position of its `n` units shows the percentage of its last poll, or that of before. -/
theorem progressAt_cases (s : State cfg) {n q : Nat} (hq : q ≤ 3 * n) :
    s.progressAt n q = s.progress ∨ (s.progressAt n q).toNat ≤ 100 := by
  unfold State.progressAt
  simp only
  split
  · exact .inr (percent_le (by omega))
  · exact .inl rfl

/-! ### How a command's turn ends -/

/-- From `s` to `t` a command `i` completes: it has published its slots and RESULT (Publishes) over the PROGRESS of its
last poll, keeping each memory in canonical form, and then completed. -/
def Concludes (i : Instr) (s t : State) : Prop :=
  ∃ p u code c, (p = s.progress ∨ p.toNat ≤ 100) ∧ Publishes i { s with progress := p } u ∧
    (s.memoryWf = true → u.memoryWf = true) ∧ t = u.complete code c

/-- From `s` to `t` a command with the body `b` has paused where the host acts next. -/
def Pauses (b : Body .default) (s t : State) : Prop :=
  ∃ e rest, s.host = e :: rest ∧ s.position + e.wait ≤ (b.ending s).position b.units ∧
    t = s.pause (s.position + e.wait) b.units (s.endUnit b.units)

theorem reject_concludes (i : Instr) (s : State) (code : ErrCode) : Concludes i s (s.reject i code) := by
  unfold State.reject
  split
  · next hi => exact ⟨s.progress, _, code, false, .inl rfl, publishes_result hi s minusOne, id, rfl⟩
  · exact ⟨s.progress, s, code, false, .inl rfl, publishes_refl i s, id, rfl⟩

theorem CommandBody.conclude_concludes {s : State} {i : Instr} {b : Body .default} (hb : CommandBody s i b) :
    Concludes i s (b.conclude s (b.ending s)) := by
  have hq := ending_position_le b s
  rcases ending_cases b s with ⟨j, he, _, _, hf⟩ | ⟨he, _, _⟩ | ⟨he, _, _⟩
  · rw [he] at hq ⊢
    exact ⟨_, _, .noThreshold, false, progressAt_cases s hq, publishes_result (hb.isThreshold_of_fails hf) _ _, id, rfl⟩
  · rw [he] at hq ⊢
    exact ⟨_, _, .ok, true, progressAt_cases s hq, hb.publishes_stopped _ _, fun hs => hb.memoryWf_stopped hs _ _, rfl⟩
  · rw [he]
    exact ⟨s.progress, _, .ok, false, .inl rfl, hb.publishes_finished s, hb.memoryWf_finished, rfl⟩

/-- Everything a command can do: it completes, or it pauses where the host acts next. -/
theorem exec_cases {i : Instr} {s t : State} (h : exec i s = .next t) :
    Concludes i s t ∨ ∃ b, CommandBody s i b ∧ Pauses b s t := by
  rcases exec_outcomes i s with ⟨code, ho⟩ | ⟨b, hb, ho⟩
  · cases ho.symm.trans h
    exact .inl (reject_concludes i s code)
  · cases ho.symm.trans h
    rcases runBody_cases b s with ⟨_, hr⟩ | ⟨q, hq, hle, hr⟩
    · exact .inl (hr ▸ hb.conclude_concludes)
    · right
      refine ⟨b, hb, ?_⟩
      unfold State.nextStop at hq
      split at hq
      · cases hq
      · next e rest hh => cases hq; exact ⟨e, rest, hh, hle, hr⟩

theorem Concludes.busy {i : Instr} {s t : State} (h : Concludes i s t) : t.busy = false := by
  obtain ⟨_, _, _, _, _, _, _, rfl⟩ := h
  rfl

/-- Settles O18: a conclusion publishes slots and RESULT only, a pause not even those. -/
theorem noCommandWritesItsInputs : Obligations.NoCommandWritesItsInputs := by
  intro i s t h
  rcases exec_cases h with ⟨p, u, code, c, _, ⟨slots, result, rfl, hr⟩, _, rfl⟩ | ⟨b, _, e, rest, hh, _, rfl⟩
  · exact ⟨rfl, rfl, rfl, rfl, fun _ => rfl, rfl, rfl, hr⟩
  · exact ⟨rfl, rfl, rfl, rfl, fun _ => rfl, rfl, by simp [State.pause, hh], fun _ => rfl⟩

/-! ### The invariant -/

theorem Inv_of_idle {s : State} (hm : s.memoryWf = true) (hp : s.progress.toNat ≤ 100) (hj : s.job = none) : s.Inv :=
  ⟨hm, hp, fun hb => by simp [State.busy, hj] at hb⟩

theorem memoryWf_of_blank {s : State} (hk : s.kram = []) (hs : ∀ i, ∃ gen, s.slot i = Slot.blank gen) :
    s.memoryWf = true :=
  State.memoryWf_iff.mpr ⟨by rw [hk]; rfl, fun i => by
    obtain ⟨gen, hi⟩ := hs i
    rw [hi]; exact memoriesWf_blank gen⟩

theorem State.Fresh.inv {r : State} (h : r.Fresh) : r.Inv := by
  have hs := h.slot
  obtain ⟨_, _, _, _, _, rfl⟩ := h
  exact Inv_of_idle (memoryWf_of_blank rfl hs) (Nat.zero_le _) rfl

/-- Settles O2: the reset state lists no cell and has no command in progress. -/
theorem resetMeetsInvariant : Obligations.ResetMeetsInvariant := reset_fresh.inv

/-- A completion leaves no command in progress, and PROGRESS 100 or as it was. -/
theorem complete_inv {s : State} (hm : s.memoryWf = true) (hp : s.progress.toNat ≤ 100) (code : ErrCode) (c : Bool) :
    (s.complete code c).Inv := by
  refine Inv_of_idle hm ?_ rfl
  rw [State.complete_progress]
  split
  · decide
  · exact hp

theorem illegalCommand_inv {s : State} (hs : s.Inv) (c : CmdBlock) : (s.illegalCommand c).Inv := by
  obtain ⟨hm, hp, _⟩ := hs
  unfold State.illegalCommand
  split
  · exact complete_inv (s := { s with result := minusOne }) hm hp _ _
  · exact complete_inv hm hp _ _

theorem pause_inv {s : State} (hs : s.Inv) {q n : Nat} (hq : q ≤ 3 * n) (e : Nat) : (s.pause q n e).Inv := by
  obtain ⟨hm, hp, ho⟩ := hs
  refine ⟨hm, ?_, fun hb => ho (by simpa [State.busy, State.pause] using hb)⟩
  rcases progressAt_cases s hq with h | h
  · rw [State.pause_progress, h]; exact hp
  · exact h

theorem exec_inv {i : Instr} {s t : State} (hs : s.Inv) (h : exec i s = .next t) : t.Inv := by
  rcases exec_cases h with ⟨p, u, code, c, hp, ⟨slots, result, rfl, _⟩, hm, rfl⟩ | ⟨b, _, e, rest, _, hq, rfl⟩
  · exact complete_inv (hm hs.1) (hp.elim (fun h => h ▸ hs.2.1) id) code c
  · exact pause_inv hs (hq.trans (ending_position_le b s)) _

/-! ### The invariant: the host's turn -/

theorem memoryWf_foldl_scramble (l : List SlotNo) {s : State} (hs : s.memoryWf = true) :
    (l.foldl State.scramble s).memoryWf = true := by
  induction l generalizing s with
  | nil => exact hs
  | cons i l ih => exact ih (memoryWf_withSlot hs (memoriesWf_unspecSlot s.draws))

/-- An abort loses the contents of slots, and an unspecified slot lists no cell (70_reset_and_hazards.md R314). -/
theorem memoryWf_abort {s : State} (hs : s.memoryWf = true) : s.abort.memoryWf = true := by
  unfold State.abort
  split
  · exact hs
  · split
    · exact memoryWf_foldl_scramble _ hs
    · exact hs

theorem softReset_inv {s : State} (hs : s.Inv) : s.softReset.Inv :=
  Inv_of_idle (memoryWf_abort hs.1) (Nat.zero_le _) rfl

theorem accept_inv {s : State} (hs : s.Inv) : s.accept.Inv :=
  ⟨hs.1, Nat.zero_le _, fun _ => ⟨rfl, rfl, rfl⟩⟩

theorem writeCtrl_inv {s : State} (hs : s.Inv) (v : Word) : (writeCtrl s v).Inv := by
  have hfields : ({ s with cancel := v.getLsbD 1, ie := v.getLsbD 2 } : State).Inv := hs
  unfold writeCtrl
  split
  · exact softReset_inv hs
  · simp only
    split
    · split
      · exact hfields
      · exact accept_inv hfields
    · exact hfields

theorem writeStatus_inv {s : State} (hs : s.Inv) (v : Word) : (writeStatus s v).Inv := by
  obtain ⟨hm, hp, ho⟩ := hs
  rw [writeStatus_eq]
  refine ⟨hm, hp, fun hb => ?_⟩
  obtain ⟨hd, hc, he⟩ := ho hb
  exact ⟨by simp [hd], hc, he⟩

theorem withSlot_inv {s : State} (hs : s.Inv) {i : SlotNo} {t : Slot} (ht : t.memoriesWf = true) :
    (s.withSlot i t).Inv :=
  ⟨memoryWf_withSlot hs.1 ht, hs.2⟩

/-- A write that reaches its location keeps the invariant, the access lying in the memory it names. -/
theorem writeLoc_inv {s : State} (hs : s.Inv) {n : Width} {v : Word} {l : Loc .default} {a : Nat} (hl : l.fits a)
    (hn : l.isPlane = true → l.offset + n.bytes ≤ Config.default.planeBytes) : (writeLoc s n v l).Inv := by
  have hslot := memoryWf_slot hs.1
  cases l with
  | ctrl => exact writeCtrl_inv hs v
  | status => exact writeStatus_inv hs v
  | kram i =>
    obtain ⟨hk, hw⟩ := State.memoryWf_iff.mp hs.1
    exact ⟨State.memoryWf_iff.mpr ⟨memPut_wf _ hl.1 hk, hw⟩, hs.2⟩
  | pal t i => exact withSlot_inv hs (memoriesWf_withPal (hslot t) hl.1)
  | pix t o =>
    obtain ⟨hpal, hpix, halp, hsel⟩ := Slot.memoriesWf_iff.mp (hslot t)
    exact withSlot_inv hs (Slot.memoriesWf_iff.mpr ⟨hpal, planeStore_wf v (hn rfl) hpix, halp, hsel⟩)
  | alp t o =>
    obtain ⟨hpal, hpix, halp, hsel⟩ := Slot.memoriesWf_iff.mp (hslot t)
    exact withSlot_inv hs (Slot.memoriesWf_iff.mpr ⟨hpal, hpix, planeStore_wf v (hn rfl) halp, hsel⟩)
  | sel t o =>
    obtain ⟨hpal, hpix, halp, hsel⟩ := Slot.memoriesWf_iff.mp (hslot t)
    exact withSlot_inv hs (Slot.memoriesWf_iff.mpr ⟨hpal, hpix, halp, planeStore_wf v (hn rfl) hsel⟩)
  | sdim t => exact withSlot_inv hs (hslot t)
  | sfmt t => exact withSlot_inv hs (hslot t)
  | sbox0 t => exact withSlot_inv hs (hslot t)
  | sbox1 t => exact withSlot_inv hs (hslot t)
  | _ => exact hs

/-- A legal plane access lies in its plane (20_memory.md R71). -/
theorem plane_bound_of_legal {a : Word} {n : Width} (h : legal cfg a n = true) (hp : (locate cfg a).isPlane = true) :
    (locate cfg a).offset + n.bytes ≤ cfg.planeBytes := by
  simp only [legal, hp, if_true, Bool.and_eq_true, decide_eq_true_eq] at h
  exact h.2

theorem hostWrite_inv {s : State} (hs : s.Inv) (a : Word) (n : Width) (v : Word) : (hostWrite s a n v).Inv := by
  unfold hostWrite
  split
  · exact hs
  · next hlegal =>
    split
    · exact hs
    · exact writeLoc_inv hs (locate_fits a) (plane_bound_of_legal (by simpa using hlegal))

theorem hostAct_inv {s : State} (hs : s.Inv) (act : HostAct) : (hostAct s act).Inv := by
  cases act with
  | read a n => exact hs
  | write a n v => exact hostWrite_inv hs a n v
  | powerOn => exact (powerOn_fresh s).inv

/-- Settles O3, by the four kinds of step. -/
theorem stepKeepsInvariant : Obligations.StepKeepsInvariant := by
  intro s t hs h
  rcases step_cases s with ⟨_, hstep⟩ | ⟨e, rest, _, hstep⟩ | ⟨j, i, _, _, hstep⟩ | ⟨j, e, _, _, hstep⟩ <;>
    rw [hstep] at h
  · cases h; exact hs
  · cases h; exact hostAct_inv (s := { s with host := rest }) hs e.act
  · exact exec_inv hs h
  · cases h; exact illegalCommand_inv hs j.cmd

end Sys2Proof.Machine

/-! A command that is still in progress after its turn (O22). -/

namespace Sys2Proof.Machine

variable {cfg : Config}

/-! ### A paused command -/

/-- The poll that stops a command is the end of the units that run (40_common.md R133, R134). -/
theorem stopsAt_iff_endUnit {s : State} {n k : Nat} (hk : k < n) : s.stopsAt n k ↔ s.endUnit n = k := by
  unfold State.stopsAt State.endUnit
  cases s.phase with
  | stopping => simp [hk]; omega
  | passed => cases s.cancel <;> simp [hk] <;> omega
  | reported => cases s.cancel <;> simp [hk] <;> omega
  | toPoll => cases s.cancel <;> simp [hk] <;> omega

theorem unitsDone_pause {s : State cfg} {j : Job} (hj : s.job = some j) (q n e : Nat) :
    (s.pause q n e).unitsDone = q / 3 := by
  simp [State.unitsDone, State.pause, hj]

theorem phase_pause {s : State cfg} {j : Job} (hj : s.job = some j) (q n e : Nat) :
    (s.pause q n e).phase =
      if q % 3 = 0 then .toPoll else if q % 3 = 1 then .reported else if q / 3 = e then .stopping else .passed := by
  simp [State.phase, State.pause, hj]

/-- A paused command stands behind the poll that stops it only at that poll. -/
theorem stopsAt_of_pause_stopping {s : State} {j : Job} (hj : s.job = some j) {q n : Nat} (hq : q ≤ 3 * n)
    (h : (s.pause q n (s.endUnit n)).phase = .stopping) : s.stopsAt n (s.pause q n (s.endUnit n)).unitsDone := by
  rw [phase_pause hj] at h
  rw [unitsDone_pause hj]
  split_ifs at h with h0 h1 he
  exact (stopsAt_iff_endUnit (by omega)).mpr he.symm

/-- A paused command that stands behind a poll which did not stop it is not at the one that does. -/
theorem not_stopsAt_of_pause_passed {s : State} {j : Job} (hj : s.job = some j) {q n : Nat} (hq : q ≤ 3 * n)
    (h : (s.pause q n (s.endUnit n)).phase = .passed) : ¬ s.stopsAt n (s.pause q n (s.endUnit n)).unitsDone := by
  rw [phase_pause hj] at h
  rw [unitsDone_pause hj]
  split_ifs at h with h0 h1 he
  exact fun hs => he ((stopsAt_iff_endUnit (by omega)).mp hs).symm

theorem steps_lt_three (p : Phase) : p.steps < 3 := by cases p <;> decide

theorem position_div (s : State cfg) : s.position / 3 = s.unitsDone := by
  have := steps_lt_three s.phase
  unfold State.position
  omega

theorem position_mod (s : State cfg) : s.position % 3 = s.phase.steps := by
  have := steps_lt_three s.phase
  unfold State.position
  omega

/-- Where the engine is given no step, a pause finds the phase it is in. -/
theorem pause_phase_self {s : State cfg} {n : Nat} (hq : s.position ≤ 3 * n) :
    (if s.position % 3 = 0 then Phase.toPoll else if s.position % 3 = 1 then .reported
      else if s.position / 3 = s.endUnit n then .stopping else .passed) = s.phase := by
  rw [position_mod, position_div]
  unfold State.position at hq
  cases hp : s.phase <;> rw [hp] at hq <;> simp only [Phase.steps] at hq
  case toPoll => rfl
  case reported => rfl
  case passed =>
    have he : s.unitsDone ≠ s.endUnit n := by
      simp only [State.endUnit, hp]
      split_ifs <;> omega
    exact if_neg he
  case stopping =>
    have he : s.unitsDone = s.endUnit n := by
      simp only [State.endUnit, hp, true_or, if_true, reduceCtorEq, if_false]
      omega
    exact if_pos he

theorem progressAt_self (s : State cfg) (n : Nat) : s.progressAt n s.position = s.progress := by
  unfold State.progressAt
  exact if_neg (by omega)

/-- PROGRESS where a command stands after at least one engine step: that of its last poll, if it came since. -/
theorem progressAt_of_pos (s : State cfg) {n q : Nat} (hq : 0 < q) :
    s.progressAt n q = if s.position < 3 * ((q - 1) / 3) + 1 then percent ((q - 1) / 3) n else s.progress := by
  have : 3 * ((q - 1) / 3) + 1 ≤ q := by omega
  simp only [State.progressAt, this, and_true]

/-- A command that is given no engine step is left as it is. -/
theorem pause_self {s : State} {j : Job} {e : HostEvent} {rest : List HostEvent} {n : Nat} (hj : s.job = some j)
    (hh : s.host = e :: rest) (he : e.wait = 0) (hq : s.position ≤ 3 * n) :
    s.pause s.position n (s.endUnit n) = s := by
  have rebuilt : ∀ p k h, p = s.progress → k = s.job → h = s.host →
      ({ s with progress := p, job := k, host := h } : State) = s := by
    rintro _ _ _ rfl rfl rfl; rfl
  have hunits : s.unitsDone = j.units := by simp [State.unitsDone, hj]
  have hphase : s.phase = j.phase := by simp [State.phase, hj]
  have hwait : ({ e with wait := 0 } : HostEvent) = e := by rw [← he]
  refine rebuilt _ _ _ (progressAt_self s n) ?_ ?_
  · rw [pause_phase_self hq, position_div, hj, hunits, hphase]; rfl
  · rw [hh]; exact congrArg (· :: rest) hwait

/-- A command whose body has units is one that polls, with that number of them (40_common.md R135). -/
theorem CommandBody.pollUnits {s : State} {i : Instr} {b : Body .default} (hb : CommandBody s i b) (h : 0 < b.units) :
    PollUnits s i b.units := by
  cases hb with
  | rows out hi hc =>
    obtain ⟨rfl, -⟩ := sameFormat_ok hc
    exact .rows hi
  | columns w which hi hc =>
    obtain ⟨rfl, -⟩ := sameFormat_ok hc
    exact .columns hi
  | adaptthresh r fails f hc =>
    obtain ⟨rfl, -⟩ := source_ok (adaptCheck_ok hc)
    exact .cells
  | _ => exact absurd h (Nat.lt_irrefl 0)

/-- Settles O22: a command in progress after its turn has paused, and what a pause leaves is said above. -/
theorem nothingIsPublishedWhileBusy : Obligations.NothingIsPublishedWhileBusy := by
  intro i s t h hbusy
  rcases exec_cases h with hc | ⟨b, hb, e, rest, hh, hq, rfl⟩
  · rw [hc.busy] at hbusy; cases hbusy
  have hle := hq.trans (ending_position_le b s)
  obtain ⟨j, hj⟩ : ∃ j, s.job = some j := by
    simpa [State.busy, State.pause, Option.isSome_iff_exists] using hbusy
  have hsb : s.busy = true := by simp [State.busy, hj]
  refine ⟨rfl, rfl, rfl, rfl, rfl, by simp [State.pause, hj], ?_⟩
  intro stands poll
  have hstands : ∀ u : State, stands u = u.position := fun u => by
    simp only [stands, State.position]
    cases u.phase <;> rfl
  have ht : stands (s.pause (s.position + e.wait) b.units (s.endUnit b.units)) = s.position + e.wait :=
    (hstands _).trans (position_pause hsb _ _ _)
  refine ⟨e, rest, hh, by simp [State.pause, hh], by rw [ht, hstands], fun hw => ?_, fun hw => ?_⟩
  · rw [hw] at hle ⊢
    exact pause_self hj hh hw hle
  · refine ⟨b.units, hb.pollUnits (by omega), ht.le.trans hle, ?_, stopsAt_of_pause_stopping hj hle,
      not_stopsAt_of_pause_passed hj hle⟩
    simp only [poll, ht, hstands]
    exact progressAt_of_pos s (by omega)

end Sys2Proof.Machine
end

section

/-! Host accesses (O51, O52, O58): which address each location has, what an access that is not legal does, and what a
command in progress lets through. -/

namespace Sys2Proof.Machine

variable {cfg : Config}

/-! ### Accesses that are not legal, and dropped ones -/

theorem memRead_of_illegal {s : State cfg} {a : Word} {n : Width} (h : legal cfg a n = false) :
    memRead s a n = 0#32 := by
  simp [memRead, h]

theorem hostWrite_of_illegal {s : State cfg} {a : Word} {n : Width} (v : Word) (h : legal cfg a n = false) :
    hostWrite s a n v = s := by
  simp [hostWrite, h]

/-- A read that is not legal gives 0, and only the host's record shows it (20_memory.md R68, R71). -/
theorem hostRead_of_illegal {s : State cfg} {a : Word} {n : Width} (h : legal cfg a n = false) :
    hostRead s a n = { s with replies := 0#32 :: s.replies, draws := s.draws + 1 } := by
  rw [hostRead, memRead_of_illegal h]

/-- While busy a legal write of a command input is dropped (20_memory.md R78). -/
theorem hostWrite_of_dropped {s : State cfg} {a : Word} {n : Width} (v : Word) (h : legal cfg a n = true)
    (hs : s.busy = true) (hd : (locate cfg a).busyDropped = true) : hostWrite s a n v = { s with haz := true } := by
  simp [hostWrite, h, hs, hd]

/-- While busy a legal read of a slot, a palette or KRAM draws a free value (20_memory.md R79). -/
theorem memRead_of_unspecified {s : State cfg} {a : Word} {n : Width} (h : legal cfg a n = true) (hs : s.busy = true)
    (hu : (locate cfg a).busyUnspecified = true) : memRead s a n = truncTo n (Config.busyRead s.draws) := by
  simp [memRead, h, hs, hu]

theorem legal_of_misaligned {a : Word} {n : Width} (h : a.toNat % n.bytes ≠ 0) : legal cfg a n = false := by
  simp [legal, h]

theorem legal_of_unmapped {a : Word} (h : locate cfg a = .unmapped) (n : Width) : legal cfg a n = false := by
  simp [legal, h]

theorem mapped_of_legal {a : Word} {n : Width} (h : legal cfg a n = true) : locate cfg a ≠ .unmapped := by
  intro hu
  simp [legal_of_unmapped hu] at h

/-- Outside the planes only an access of four bytes is legal (20_memory.md R72). -/
theorem legal_of_narrow {a : Word} {n : Width} (hp : (locate cfg a).isPlane = false) (hn : n ≠ .four) :
    legal cfg a n = false := by
  simp [legal, hp, hn]

/-- Settles O51: a misaligned access is not legal. -/
theorem misalignedAccessesDoNothing : Obligations.MisalignedAccessesDoNothing := by
  intro s a n v h
  have hl := legal_of_misaligned (cfg := .default) h
  exact ⟨hostRead_of_illegal hl, hostWrite_of_illegal v hl⟩

/-! ### The address of a location -/

/-- The address of a location (10_state.md R23, 20_memory.md R61-R67). -/
def Loc.address : Loc cfg → Nat
  | .id => 0x000
  | .ctrl => 0x004
  | .status => 0x008
  | .progress => 0x00C
  | .result => 0x010
  | .caps => 0x014
  | .cmd i => 0x020 + 4 * i.val
  | .sdim t => 0x100 + 16 * t.val
  | .sfmt t => 0x104 + 16 * t.val
  | .sbox0 t => 0x108 + 16 * t.val
  | .sbox1 t => 0x10C + 16 * t.val
  | .kram i => 0x800 + 4 * i
  | .pal t i => 0x10000000 + t.val * 2 ^ 24 + 4 * i
  | .pix t o => 0x20000000 + t.val * 2 ^ 24 + o
  | .alp t o => 0x30000000 + t.val * 2 ^ 24 + o
  | .sel t o => 0x40000000 + t.val * 2 ^ 24 + o
  | .unmapped => 0

theorem locateRegister_address (o : Nat) :
    locateRegister cfg o = .unmapped ∨ (locateRegister cfg o).address = o := by
  unfold locateRegister
  by_cases h4 : o % 4 = 0
  · rw [if_neg (not_not_intro h4)]
    iterate 6 (split; · next h => exact .inr h.symm)
    split
    · next hcmd => right; simp only [Loc.address, Fin.ofNat]; omega
    · split
      · next hslot =>
        right
        generalize hword : (o - 0x100) % 0x10 / 4 = word
        have hlt : word < 4 := by omega
        interval_cases word <;> simp only [Loc.address] <;> omega
      · split
        · next hk => right; simp only [Loc.address]; omega
        · exact .inl rfl
  · rw [if_pos h4]; exact .inl rfl

theorem locatePlane_address {mk : SlotNo cfg → Nat → Loc cfg} {a t off : Nat}
    (hmk : ∀ i : SlotNo cfg, i.val = t → (mk i off).address = a) :
    locatePlane mk t off = .unmapped ∨ (locatePlane mk t off).address = a := by
  unfold locatePlane
  split_ifs
  · exact .inr (hmk _ rfl)
  · exact .inl rfl
  · exact .inl rfl

/-- The region decode finds a location at no address but its own. -/
theorem locate_address (a : Word) : locate cfg a = .unmapped ∨ (locate cfg a).address = a.toNat := by
  unfold locate
  simp only
  split
  · split
    · exact locateRegister_address _
    · exact .inl rfl
  · split_ifs
    · right; simp only [Loc.address]; omega
    · exact .inl rfl
    · exact .inl rfl
  · exact locatePlane_address (mk := .pix) fun i hi => by simp only [Loc.address]; omega
  · exact locatePlane_address (mk := .alp) fun i hi => by simp only [Loc.address]; omega
  · exact locatePlane_address (mk := .sel) fun i hi => by simp only [Loc.address]; omega
  · exact .inl rfl

/-! ### The planes -/

/-- The three planes of a slot (10_state.md R46-R48). -/
inductive Plane where
  | pix
  | alp
  | sel

/-- The region of the address map that a plane lies in (20_memory.md R65-R67). -/
def Plane.region : Plane → Nat
  | .pix => 2
  | .alp => 3
  | .sel => 4

/-- The location of a plane's byte. -/
def Plane.loc : Plane → SlotNo cfg → Nat → Loc cfg
  | .pix => .pix
  | .alp => .alp
  | .sel => .sel

theorem Plane.loc_ne_unmapped (p : Plane) (t : SlotNo cfg) (o : Nat) : p.loc t o ≠ .unmapped := by
  cases p <;> nofun

theorem Plane.address_loc (p : Plane) (t : SlotNo cfg) (o : Nat) :
    (p.loc t o).address = p.region * 2 ^ 28 + t.val * 2 ^ 24 + o := by
  cases p <;> rfl

theorem Plane.isPlane_loc (p : Plane) (t : SlotNo cfg) (o : Nat) : (p.loc t o).isPlane = true := by
  cases p <;> rfl

theorem Plane.offset_loc (p : Plane) (t : SlotNo cfg) (o : Nat) : (p.loc t o).offset = o := by
  cases p <;> rfl

/-- A plane location is a byte of one of the three planes. -/
theorem exists_plane_of_isPlane {l : Loc cfg} (h : l.isPlane = true) :
    ∃ (p : Plane) (t : SlotNo cfg) (o : Nat), l = p.loc t o := by
  cases l
  case pix t o => exact ⟨.pix, t, o, rfl⟩
  case alp t o => exact ⟨.alp, t, o, rfl⟩
  case sel t o => exact ⟨.sel, t, o, rfl⟩
  all_goals cases h

/-! ### The regions of the address map -/

theorem locate_of_register {a : Word} (h : a.toNat < 0x1000) : locate cfg a = locateRegister cfg a.toNat := by
  have hr : a.toNat / 2 ^ 28 = 0 := by omega
  simp only [locate, hr, h, if_true]

theorem locate_of_plane {a : Word} (p : Plane) (h : a.toNat / 2 ^ 28 = p.region) :
    locate cfg a = locatePlane p.loc (a.toNat / 2 ^ 24 % 16) (a.toNat % 2 ^ 24) := by
  cases p <;> simp only [locate, h, Plane.region] <;> rfl

/-- The byte `o` of a plane of slot `t` lies where the address map says. -/
theorem locate_plane {a : Word} {p : Plane} {t : SlotNo} {o : Nat} (ho : o < 2 ^ 24)
    (ha : a.toNat = p.region * 2 ^ 28 + t.val * 2 ^ 24 + o) : locate .default a = p.loc t o := by
  have ht : t.val < 8 := t.isLt
  have hregion : a.toNat / 2 ^ 28 = p.region := by omega
  have hslot : a.toNat / 2 ^ 24 % 16 = t.val := by omega
  have hoff : a.toNat % 2 ^ 24 = o := by omega
  rw [locate_of_plane p hregion, hslot, hoff]
  unfold locatePlane
  rw [dif_pos t.isLt, if_pos ho]

/-- The offsets below 0x1000 that 10_state.md R23 gives a register. -/
theorem locateRegister_mapped {o : Nat} (h4 : o % 4 = 0)
    (h : o < 0x018 ∨ (0x020 ≤ o ∧ o < 0x040) ∨ (0x100 ≤ o ∧ o < 0x180) ∨ (0x800 ≤ o ∧ o < 0x800 + 4 * 225)) :
    locateRegister .default o ≠ .unmapped := by
  have hk : kramSize .default = 225 := rfl
  have hn : Config.default.nslot = 8 := rfl
  unfold locateRegister
  rw [if_neg (not_not_intro h4)]
  iterate 7 (split; · nofun)
  split
  · split <;> nofun
  · split
    · nofun
    · omega

/-- The mapped addresses (20_memory.md R61, R62, R64-R68), region by region. -/
def IsMapped (a : Word) : Prop :=
  (a.toNat / 2 ^ 28 = 0 ∧ a.toNat % 4 = 0 ∧
    (a.toNat < 0x018 ∨ (0x020 ≤ a.toNat ∧ a.toNat < 0x040) ∨ (0x100 ≤ a.toNat ∧ a.toNat < 0x180) ∨
      (0x800 ≤ a.toNat ∧ a.toNat < 0x800 + 4 * 225))) ∨
  (a.toNat / 2 ^ 28 = 1 ∧ a.toNat / 2 ^ 24 % 16 < 8 ∧ a.toNat % 2 ^ 24 < 0x400 ∧ a.toNat % 4 = 0) ∨
  ((a.toNat / 2 ^ 28 = 2 ∨ a.toNat / 2 ^ 28 = 3 ∨ a.toNat / 2 ^ 28 = 4) ∧ a.toNat / 2 ^ 24 % 16 < 8)

/-- Each region's decoder finds its mapped addresses. -/
theorem locate_of_isMapped {a : Word} (hm : IsMapped a) : locate .default a ≠ .unmapped := by
  rcases hm with ⟨_, h4, ho⟩ | ⟨hr, hs, ho, h4⟩ | ⟨hr, hs⟩
  · rw [locate_of_register (by omega)]
    exact locateRegister_mapped h4 ho
  · have ha : a = BitVec.ofNat 32
        (0x10000000 + (⟨a.toNat / 2 ^ 24 % 16, hs⟩ : SlotNo).val * 2 ^ 24 + 4 * (a.toNat % 2 ^ 24 / 4)) := by
      apply BitVec.eq_of_toNat_eq
      rw [BitVec.toNat_ofNat]
      simp only
      omega
    rw [ha, locate_pal _ (by omega)]
    nofun
  · obtain ⟨p, hp⟩ : ∃ p : Plane, a.toNat / 2 ^ 28 = p.region := by
      rcases hr with h | h | h
      · exact ⟨.pix, h⟩
      · exact ⟨.alp, h⟩
      · exact ⟨.sel, h⟩
    rw [locate_plane (p := p) (t := ⟨_, hs⟩) (o := a.toNat % 2 ^ 24) (by omega) (by simp only; omega)]
    exact p.loc_ne_unmapped _ _

/-- A location found lies at its own address, and those are all mapped. -/
theorem isMapped_of_locate {a : Word} (h : locate .default a ≠ .unmapped) : IsMapped a := by
  have hfits := locate_fits (cfg := .default) a
  have ha := (locate_address (cfg := .default) a).resolve_left h
  have hk : kramSize .default = 225 := rfl
  have hb : Config.default.planeBytes = 2 ^ 24 := rfl
  have hn : Config.default.nslot = 8 := rfl
  unfold IsMapped
  cases hl : locate .default a <;> rw [hl] at ha hfits h <;> simp only [Loc.address, Loc.fits] at ha hfits
  case unmapped => exact absurd rfl h
  case sdim t | sfmt t | sbox0 t | sbox1 t => have := t.isLt; omega
  case pal t _ | pix t _ | alp t _ | sel t _ => have := t.isLt; omega
  all_goals omega

/-- Settles O52: an unmapped address is the address of no location, and there no access is legal. -/
theorem unmappedAddressesReadZero : Obligations.UnmappedAddressesReadZero := by
  intro s a n v region slot mapped
  have hmap : locate .default a = .unmapped ↔ ¬ mapped :=
    ⟨fun hl hm => locate_of_isMapped hm hl, fun hm => by_contra fun hl => hm (isMapped_of_locate hl)⟩
  refine ⟨hmap, fun hm => ?_⟩
  have hl := legal_of_unmapped (hmap.mpr hm) n
  exact ⟨hostRead_of_illegal hl, hostWrite_of_illegal v hl⟩

/-! ### Accesses while busy -/

/-- From 0x020 on every mapped location is a command input, whose write is dropped while busy (20_memory.md R78). -/
theorem busyDropped_of_le {a : Word} (hu : locate cfg a ≠ .unmapped) (h : 0x020 ≤ a.toNat) :
    (locate cfg a).busyDropped = true := by
  have ha := (locate_address a).resolve_left hu
  cases hl : locate cfg a <;> rw [hl] at ha hu <;> simp only [Loc.address] at ha
  case unmapped => exact absurd rfl hu
  case id | ctrl | status | progress | result | caps => omega
  all_goals rfl

/-- From 0x040 on every mapped location is one whose reads are unspecified while busy (20_memory.md R79). -/
theorem busyUnspecified_of_le {a : Word} (hu : locate cfg a ≠ .unmapped) (h : 0x040 ≤ a.toNat) :
    (locate cfg a).busyUnspecified = true := by
  have ha := (locate_address a).resolve_left hu
  cases hl : locate cfg a <;> rw [hl] at ha hu <;> simp only [Loc.address] at ha
  case unmapped => exact absurd rfl hu
  case id | ctrl | status | progress | result | caps | cmd => omega
  all_goals rfl

/-! ### Single registers -/

theorem locate_id : locate .default 0x000#32 = .id := by decide
theorem locate_ctrl : locate .default 0x004#32 = .ctrl := by decide
theorem locate_status : locate .default 0x008#32 = .status := by decide
theorem locate_progress : locate .default 0x00C#32 = .progress := by decide
theorem locate_result : locate .default 0x010#32 = .result := by decide
theorem locate_caps : locate .default 0x014#32 = .caps := by decide

/-- The registers that no write changes (10_state.md R32). -/
def Loc.readOnly : Loc cfg → Bool
  | .id => true
  | .progress => true
  | .result => true
  | .caps => true
  | _ => false

theorem locate_readOnly {a : Word} (h : a = 0x000#32 ∨ a = 0x00C#32 ∨ a = 0x010#32 ∨ a = 0x014#32) :
    (locate .default a).readOnly = true := by
  rcases h with rfl | rfl | rfl | rfl
  · rw [locate_id]; rfl
  · rw [locate_progress]; rfl
  · rw [locate_result]; rfl
  · rw [locate_caps]; rfl

theorem busyDropped_of_readOnly {l : Loc cfg} (h : l.readOnly = true) : l.busyDropped = false := by
  cases l
  case id | progress | result | caps => rfl
  all_goals cases h

theorem writeLoc_readOnly (s : State cfg) (n : Width) (v : Word) {l : Loc cfg} (h : l.readOnly = true) :
    writeLoc s n v l = s := by
  cases l
  case id | progress | result | caps => rfl
  all_goals cases h

/-- A write of a read-only register does nothing, whatever its width and whether or not a command is in progress. -/
theorem hostWrite_readOnly {s : State cfg} {a : Word} (h : (locate cfg a).readOnly = true) (n : Width) (v : Word) :
    hostWrite s a n v = s := by
  cases hn : legal cfg a n with
  | false => exact hostWrite_of_illegal v hn
  | true => rw [hostWrite_of_legal v hn fun _ => busyDropped_of_readOnly h, writeLoc_readOnly s n v h]

/-- A 4-byte write of CTRL reaches it in every state. -/
theorem hostWrite_ctrl (s : State) (v : Word) : hostWrite s 0x004#32 .four v = writeCtrl s v := by
  rw [hostWrite_of_legal v (legal_four locate_ctrl nofun rfl) fun _ => by rw [locate_ctrl]; rfl, locate_ctrl]
  rfl

/-- A CTRL write while busy without SRESET stores CANCEL and IE, and START sets HAZ (20_memory.md R78). -/
theorem writeCtrl_of_busy {s : State cfg} {v : Word} (hs : s.busy = true) (hv : v.getLsbD 31 = false) :
    writeCtrl s v = { s with cancel := v.getLsbD 1, ie := v.getLsbD 2, haz := s.haz || v.getLsbD 0 } := by
  unfold writeCtrl
  simp only [hv, hs, Bool.false_eq_true, if_false, if_true]
  cases v.getLsbD 0 <;> simp only [Bool.or_false, Bool.or_true, Bool.false_eq_true, if_false, if_true]

/-- A CTRL write without SRESET and START stores CANCEL and IE (10_state.md R26). -/
theorem writeCtrl_of_no_start (s : State cfg) {v : Word} (h0 : v.getLsbD 0 = false) (h31 : v.getLsbD 31 = false) :
    writeCtrl s v = { s with cancel := v.getLsbD 1, ie := v.getLsbD 2 } := by
  simp only [writeCtrl, h0, h31, Bool.false_eq_true, if_false]

/-- Settles O58: where an address lies says which accesses a command in progress lets through. -/
theorem busyAccesses : Obligations.BusyAccesses := by
  intro s a n v hs
  refine ⟨fun hl ha => ?dropped, fun h => ?ignored, fun hv => ?ctrl, memRead_register s locate_id nofun rfl,
    memRead_register s locate_ctrl nofun rfl, memRead_register s locate_status nofun rfl,
    memRead_register s locate_progress nofun rfl, memRead_register s locate_result nofun rfl, ?caps,
    fun i => memRead_register s (locate_cmd i) nofun rfl, fun hl ha => ?unspecified⟩
  case dropped => exact hostWrite_of_dropped v hl hs (busyDropped_of_le (mapped_of_legal hl) ha)
  case ignored =>
    rcases h with h | h | h | h | h
    case inr.inr.inr.inr => exact hostWrite_of_illegal v h
    all_goals exact hostWrite_readOnly (locate_readOnly (by simp [h])) n v
  case ctrl => rw [hostWrite_ctrl, writeCtrl_of_busy hs hv]
  case caps =>
    exact (memRead_register s locate_caps nofun rfl).trans (by decide : regCaps .default = 0x00180F08#32)
  case unspecified =>
    exact memRead_of_unspecified hl hs (busyUnspecified_of_le (mapped_of_legal hl) ha)

end Sys2Proof.Machine

/-! What a write outside the planes leaves unchanged (O57). -/

namespace Sys2Proof.Machine

variable {cfg : Config}

/-- The register and palette regions hold no plane. -/
theorem isPlane_of_lt {a : Word} (h : a.toNat < 2 ^ 29) : (locate cfg a).isPlane = false := by
  have ha := locate_address (cfg := cfg) a
  cases hl : locate cfg a <;> rw [hl] at ha
  case pix | alp | sel =>
    have ha := ha.resolve_left nofun
    simp only [Loc.address] at ha
    omega
  all_goals rfl

/-- A 4-byte write outside the planes, with no command in progress. -/
theorem hostWrite_at {s : State cfg} {a : Word} {l : Loc cfg} (v : Word) (hs : s.busy = false) (hl : locate cfg a = l)
    (hu : l ≠ .unmapped) (hp : l.isPlane = false) : hostWrite s a .four v = writeLoc s .four v l := by
  rw [hostWrite_of_legal v (legal_four hl hu hp) (by simp [hs]), hl]

/-- A write that replaces one slot changes nothing beside that slot. -/
theorem withSlot_local (s : State) (i : SlotNo) (u : Slot) :
    s.withSlot i u = { s with slots := (s.withSlot i u).slots } ∧ OthersKept s (s.withSlot i u) [i] ∧
      (s.withSlot i u).slot i = u :=
  ⟨rfl, fun j hj => s.slot_withSlot_other (by simpa using hj) u, s.slot_withSlot_same i u⟩

theorem palEntry_withPal_other (t : Slot) {k n : Nat} (h : k ≠ n) (v : Word) :
    (t.withPal n v).palEntry k = t.palEntry k := by
  simp only [Slot.palEntry, Slot.withPal, memGet_memPut_other h]

theorem cmdWordAt_cmdWithWord_other (c : CmdBlock) {j k : Fin 8} (h : k ≠ j) (v : Word) :
    cmdWordAt (cmdWithWord c j v) k = cmdWordAt c k := by
  revert h
  fin_cases j <;> fin_cases k <;> simp [cmdWithWord, cmdWordAt]

/-- From `old` to `new` nothing of a slot changes but the fields of its `n`-th descriptor register (10_state.md
R38-R40). -/
def DescriptorOnly (old new : Slot) (n : Nat) : Prop :=
  new = { old with
    w := new.w, h := new.h, depth := new.depth, alpha := new.alpha, selv := new.selv, paln := new.paln,
    bx0 := new.bx0, by0 := new.by0, bx1 := new.bx1, by1 := new.by1 } ∧
  (n ≠ 0 → new.sdim = old.sdim) ∧ (n ≠ 1 → new.sfmt = old.sfmt) ∧ (n ≠ 2 → new.sbox0 = old.sbox0) ∧
  (n ≠ 3 → new.sbox1 = old.sbox1)

theorem descriptorOnly_withSdim (t : Slot) (v : Word) : DescriptorOnly t (t.withSdim v) 0 :=
  ⟨rfl, fun h => absurd rfl h, fun _ => rfl, fun _ => rfl, fun _ => rfl⟩

theorem descriptorOnly_withSfmt (t : Slot) (v : Word) : DescriptorOnly t (t.withSfmt v) 1 :=
  ⟨rfl, fun _ => rfl, fun h => absurd rfl h, fun _ => rfl, fun _ => rfl⟩

theorem descriptorOnly_withSbox0 (t : Slot) (v : Word) : DescriptorOnly t (t.withSbox0 v) 2 :=
  ⟨rfl, fun _ => rfl, fun _ => rfl, fun h => absurd rfl h, fun _ => rfl⟩

theorem descriptorOnly_withSbox1 (t : Slot) (v : Word) : DescriptorOnly t (t.withSbox1 v) 3 :=
  ⟨rfl, fun _ => rfl, fun _ => rfl, fun _ => rfl, fun h => absurd rfl h⟩

/-- A write of the `n`-th descriptor register of slot `i` replaces that slot, in those fields alone. -/
theorem hostWrite_descriptor {s : State} (hs : s.busy = false) (v : Word) (i : SlotNo) {n : Nat} (hn : n < 4) :
    ∃ u, hostWrite s (BitVec.ofNat 32 (0x100 + 16 * i.val + 4 * n)) .four v = s.withSlot i u ∧
      DescriptorOnly (s.slot i) u n := by
  have hshift : ∀ k, 0x100 + 16 * i.val + k = 0x100 + k + 16 * i.val := fun k => Nat.add_right_comm _ _ _
  rw [hshift]
  interval_cases n
  · exact ⟨_, hostWrite_at v hs (locate_sdim i) nofun rfl, descriptorOnly_withSdim _ v⟩
  · exact ⟨_, hostWrite_at v hs (locate_sfmt i) nofun rfl, descriptorOnly_withSfmt _ v⟩
  · exact ⟨_, hostWrite_at v hs (locate_sbox0 i) nofun rfl, descriptorOnly_withSbox0 _ v⟩
  · exact ⟨_, hostWrite_at v hs (locate_sbox1 i) nofun rfl, descriptorOnly_withSbox1 _ v⟩

/-- Settles O57: each write names one location, and what it replaces there is said above. -/
theorem registerWritesStayLocal : Obligations.RegisterWritesStayLocal := by
  intro s v i n
  refine ⟨fun a k ha hk => ?narrow, fun hs => ?_⟩
  case narrow =>
    have hl := legal_of_narrow (isPlane_of_lt (cfg := .default) ha) hk
    exact ⟨memRead_of_illegal hl, hostWrite_of_illegal v hl⟩
  intro write
  refine ⟨fun h0 h31 => ?ctrl, fun a ha => ?readOnly, fun hn => ?pal, fun hn => ?kram, fun hn => ?cmd,
    fun hn => ?descriptor⟩
  case ctrl => exact (hostWrite_ctrl s v).trans (writeCtrl_of_no_start s h0 h31)
  case readOnly =>
    refine hostWrite_readOnly (locate_readOnly ?_) .four v
    simp only [List.mem_cons, List.not_mem_nil, or_false] at ha
    rcases ha with rfl | rfl | rfl | rfl <;> decide
  case pal =>
    have hw : write (0x10000000 + i.val * 2 ^ 24 + 4 * n) = s.withSlot i ((s.slot i).withPal n v) :=
      hostWrite_at v hs (locate_pal i hn) nofun rfl
    obtain ⟨hslots, hothers, hslot⟩ := withSlot_local s i ((s.slot i).withPal n v)
    intro t
    rw [show t = _ from hw, hslot]
    exact ⟨hslots, hothers, rfl, fun k hk => palEntry_withPal_other _ hk v⟩
  case kram =>
    have hw : write (0x800 + 4 * n) = { s with kram := memPut n (v.extractLsb' 0 16) s.kram } :=
      hostWrite_at v hs (locate_kram hn) nofun rfl
    intro t
    rw [show t = _ from hw]
    refine ⟨rfl, fun k hk => ?_⟩
    simp only [State.coef, memGet_memPut_other hk]
  case cmd =>
    have hw : write (0x020 + 4 * n) = { s with cmd := cmdWithWord s.cmd ⟨n, hn⟩ v } :=
      hostWrite_at v hs (locate_cmd ⟨n, hn⟩) nofun rfl
    intro t
    rw [show t = _ from hw]
    exact ⟨rfl, fun k hk => cmdWordAt_cmdWithWord_other _ (fun h => hk (congrArg Fin.val h)) v⟩
  case descriptor =>
    obtain ⟨u, hw, hd⟩ := hostWrite_descriptor hs v i hn
    obtain ⟨hslots, hothers, hslot⟩ := withSlot_local s i u
    intro t new old
    have ht : t = s.withSlot i u := hw
    have hnew : new = u := by rw [show new = t.slot i from rfl, ht, hslot]
    rw [hnew, ht]
    exact ⟨hslots, hothers, hd⟩

end Sys2Proof.Machine

/-! Reads are inert and writes idempotent (O53). -/

namespace Sys2Proof.Machine

variable {cfg : Config} {α : Type}

/-! ### Memories written twice -/

theorem memPut_cons_lt {a k : Nat} (h : a < k) (v w : α) (r : Mem α) :
    memPut a v ((k, w) :: r) = (a, v) :: (k, w) :: r := by
  simp [memPut, h]

theorem memPut_cons_self (a : Nat) (v w : α) (r : Mem α) : memPut a v ((a, w) :: r) = (a, v) :: r := by
  simp [memPut]

theorem memPut_cons_gt {a k : Nat} (h : k < a) (v w : α) (r : Mem α) :
    memPut a v ((k, w) :: r) = (k, w) :: memPut a v r := by
  simp [memPut, show ¬ a < k by omega, show a ≠ k by omega]

/-- The second of two equal writes of a cell does nothing. -/
theorem memPut_memPut_same (a : Nat) (v : α) (m : Mem α) : memPut a v (memPut a v m) = memPut a v m := by
  induction m with
  | nil => exact memPut_cons_self a v v []
  | cons c r ih =>
    obtain ⟨k, w⟩ := c
    rcases Nat.lt_trichotomy a k with h | rfl | h
    · rw [memPut_cons_lt h, memPut_cons_self]
    · rw [memPut_cons_self, memPut_cons_self]
    · rw [memPut_cons_gt h, memPut_cons_gt h, ih]

/-- Writes of two cells commute. -/
theorem memPut_comm {a b : Nat} (h : a < b) (v w : α) (m : Mem α) :
    memPut a v (memPut b w m) = memPut b w (memPut a v m) := by
  induction m with
  | nil => exact (memPut_cons_lt h v w []).trans (memPut_cons_gt h w v []).symm
  | cons c r ih =>
    obtain ⟨k, x⟩ := c
    rcases Nat.lt_trichotomy a k with hak | rfl | hak
    · rw [memPut_cons_lt hak, memPut_cons_gt h]
      rcases Nat.lt_trichotomy b k with hbk | rfl | hbk
      · rw [memPut_cons_lt hbk, memPut_cons_lt h]
      · rw [memPut_cons_self, memPut_cons_lt h]
      · rw [memPut_cons_gt hbk, memPut_cons_lt hak]
    · rw [memPut_cons_gt h, memPut_cons_self, memPut_cons_self, memPut_cons_gt h]
    · rw [memPut_cons_gt (hak.trans h), memPut_cons_gt hak, memPut_cons_gt hak, memPut_cons_gt (hak.trans h), ih]

/-- The second of two equal stores in a plane does nothing. -/
theorem planeStore_planeStore (m : List Host.Cell) (o : Nat) (n : Width) (v : Word) :
    planeStore (planeStore m o n v) o n v = planeStore m o n v := by
  cases n with
  | one => exact memPut_memPut_same _ _ m
  | two => simp only [planeStore, memPut_comm (show o < o + 1 by omega), memPut_memPut_same]
  | four =>
    simp only [planeStore, memPut_comm (show o < o + 1 by omega), memPut_comm (show o < o + 2 by omega),
      memPut_comm (show o < o + 3 by omega), memPut_comm (show o + 1 < o + 2 by omega),
      memPut_comm (show o + 1 < o + 3 by omega), memPut_comm (show o + 2 < o + 3 by omega), memPut_memPut_same]

/-! ### Locations written twice -/

theorem withSlot_withSlot (s : State cfg) (i : SlotNo cfg) (t u : Slot) :
    (s.withSlot i t).withSlot i u = s.withSlot i u := by
  simp [State.withSlot, Vector.set_set]

/-- An update of a slot that does nothing the second time, made twice. -/
theorem withSlot_idempotent (s : State cfg) (i : SlotNo cfg) {f : Slot → Slot}
    (hf : f (f (s.slot i)) = f (s.slot i)) :
    (s.withSlot i (f (s.slot i))).withSlot i (f ((s.withSlot i (f (s.slot i))).slot i)) =
      s.withSlot i (f (s.slot i)) := by
  rw [withSlot_withSlot, State.slot_withSlot_same, hf]

theorem cmdWithWord_cmdWithWord (c : CmdBlock) (j : Fin 8) (v : Word) :
    cmdWithWord (cmdWithWord c j v) j v = cmdWithWord c j v := by
  fin_cases j <;> rfl

theorem withPal_withPal (t : Slot) (i : Nat) (v : Word) : (t.withPal i v).withPal i v = t.withPal i v := by
  simp only [Slot.withPal, memPut_memPut_same]

/-- Each write of a location is idempotent, but for START and SRESET (10_state.md R26). -/
theorem writeLoc_writeLoc (s : State cfg) (n : Width) (v : Word) {l : Loc cfg}
    (h : l = .ctrl → v.getLsbD 0 = false ∧ v.getLsbD 31 = false) :
    writeLoc (writeLoc s n v l) n v l = writeLoc s n v l := by
  cases l with
  | ctrl =>
    obtain ⟨h0, h31⟩ := h rfl
    simp only [writeLoc, writeCtrl_of_no_start _ h0 h31]
  | status =>
    simp only [writeLoc, writeStatus_eq]
    cases v.getLsbD 1 <;> cases v.getLsbD 3 <;> rfl
  | cmd j => simp only [writeLoc, cmdWithWord_cmdWithWord]
  | kram i => simp only [writeLoc, memPut_memPut_same]
  | sdim t => exact withSlot_idempotent s t (f := fun u => u.withSdim v) rfl
  | sfmt t => exact withSlot_idempotent s t (f := fun u => u.withSfmt v) rfl
  | sbox0 t => exact withSlot_idempotent s t (f := fun u => u.withSbox0 v) rfl
  | sbox1 t => exact withSlot_idempotent s t (f := fun u => u.withSbox1 v) rfl
  | pal t i => exact withSlot_idempotent s t (f := fun u => u.withPal i v) (withPal_withPal _ i v)
  | pix t o =>
    exact withSlot_idempotent s t (f := fun u => { u with pix := planeStore u.pix o n v })
      (by simp only [planeStore_planeStore])
  | alp t o =>
    exact withSlot_idempotent s t (f := fun u => { u with alp := planeStore u.alp o n v })
      (by simp only [planeStore_planeStore])
  | sel t o =>
    exact withSlot_idempotent s t (f := fun u => { u with sel := planeStore u.sel o n v })
      (by simp only [planeStore_planeStore])
  | _ => rfl

/-- A location whose write a running command drops is not CTRL, so its write starts and ends no command. -/
theorem busy_writeLoc (s : State cfg) (n : Width) (v : Word) {l : Loc cfg} (h : l.busyDropped = true) :
    (writeLoc s n v l).busy = s.busy := by
  have hl : l ≠ .ctrl := by rintro rfl; cases h
  simp only [State.busy, job_writeLoc s n v hl]

theorem eq_of_locate_ctrl {a : Word} (h : locate cfg a = .ctrl) : a = 0x004#32 := by
  have ha := (locate_address (cfg := cfg) a).resolve_left (by rw [h]; nofun)
  rw [h] at ha
  exact BitVec.eq_of_toNat_eq ha.symm

theorem hostWrite_hostWrite (s : State cfg) (a : Word) (n : Width) {v : Word}
    (hv : a = 0x004#32 → v.getLsbD 0 = false ∧ v.getLsbD 31 = false) :
    hostWrite (hostWrite s a n v) a n v = hostWrite s a n v := by
  cases hl : legal cfg a n with
  | false => rw [hostWrite_of_illegal v hl, hostWrite_of_illegal v hl]
  | true =>
    by_cases hd : s.busy = true ∧ (locate cfg a).busyDropped = true
    · obtain ⟨hb, hd⟩ := hd
      rw [hostWrite_of_dropped v hl hb hd, hostWrite_of_dropped (s := { s with haz := true }) v hl hb hd]
    · have hd' : s.busy = true → (locate cfg a).busyDropped = false := fun hb =>
        Bool.eq_false_iff.mpr fun h => hd ⟨hb, h⟩
      rw [hostWrite_of_legal v hl hd', hostWrite_of_legal v hl, writeLoc_writeLoc]
      · exact fun h => hv (eq_of_locate_ctrl h)
      · intro hb
        cases h : (locate cfg a).busyDropped with
        | false => rfl
        | true => rw [busy_writeLoc s n v h] at hb; exact h ▸ hd' hb

/-- With no command in progress a legal read gives the location's value. -/
theorem memRead_of_idle {s : State cfg} {a : Word} {n : Width} (hs : s.busy = false) (h : legal cfg a n = true) :
    memRead s a n = readLoc s n (locate cfg a) :=
  memRead_of_legal h fun hb => by rw [hs] at hb; cases hb

/-- What the host has read does not bear on what an idle machine answers (20_memory.md R73). -/
theorem memRead_hostRead {s : State cfg} (hs : s.busy = false) (a b : Word) (n m : Width) :
    memRead (hostRead s a n) b m = memRead s b m := by
  cases hl : legal cfg b m with
  | false => rw [memRead_of_illegal hl, memRead_of_illegal hl]
  | true =>
    rw [memRead_of_idle hs hl, memRead_of_idle (s := hostRead s a n) hs hl]
    cases locate cfg b <;> rfl

/-- Settles O53: a read changes the host's record alone, and a write done twice is done once. -/
theorem readsAreInertAndWritesIdempotent : Obligations.ReadsAreInertAndWritesIdempotent := by
  intro s a n v
  exact ⟨rfl, fun hs b m => memRead_hostRead hs a b n m, hostWrite_hostWrite s a n⟩

end Sys2Proof.Machine

/-! Plane accesses: read back (O54), byte order (O55). -/

namespace Sys2Proof.Machine

variable {cfg : Config}

/-! ### A plane of a slot -/

/-- The byte at an offset of a plane of a slot. -/
def Plane.byte : Plane → Slot → Nat → Byte
  | .pix => Slot.pixByte
  | .alp => Slot.alpByte
  | .sel => Slot.selByte

/-- The slot after a store in one of its planes. -/
def Plane.store (p : Plane) (t : Slot) (o : Nat) (n : Width) (v : Word) : Slot :=
  match p with
  | .pix => { t with pix := planeStore t.pix o n v }
  | .alp => { t with alp := planeStore t.alp o n v }
  | .sel => { t with sel := planeStore t.sel o n v }

theorem readLoc_plane (s : State cfg) (n : Width) (p : Plane) (t : SlotNo cfg) (o : Nat) :
    readLoc s n (p.loc t o) = planeWord (p.byte (s.slot t)) o n := by
  cases p <;> rfl

theorem writeLoc_plane (s : State cfg) (n : Width) (v : Word) (p : Plane) (t : SlotNo cfg) (o : Nat) :
    writeLoc s n v (p.loc t o) = s.withSlot t (p.store (s.slot t) o n v) := by
  cases p <;> rfl

/-- A store of n bytes changes those n cells (20_memory.md R69). -/
theorem memGet_planeStore (m : List Host.Cell) (o : Nat) (n : Width) (v : Word) (k : Nat) :
    memGet k (planeStore m o n v) =
      if o ≤ k ∧ k < o + n.bytes then some (v.extractLsb' (8 * (k - o)) 8) else memGet k m := by
  by_cases hk : o ≤ k ∧ k < o + n.bytes
  · obtain ⟨d, rfl⟩ := Nat.exists_eq_add_of_le hk.1
    rw [if_pos hk, Nat.add_sub_cancel_left]
    have hd : d < n.bytes := by omega
    cases n <;> simp only [Width.bytes] at hd <;> interval_cases d <;> simp [planeStore, memGet_memPut]
  · rw [if_neg hk]
    have hne : ∀ d, d < n.bytes → k ≠ o + d := by omega
    have h0 : k ≠ o := hne 0 (by cases n <;> decide)
    cases n with
    | one => rw [planeStore, memGet_memPut_other h0]
    | two => rw [planeStore, memGet_memPut_other (hne 1 (by decide)), memGet_memPut_other h0]
    | four =>
      rw [planeStore, memGet_memPut_other (hne 3 (by decide)), memGet_memPut_other (hne 2 (by decide)),
        memGet_memPut_other (hne 1 (by decide)), memGet_memPut_other h0]

theorem Plane.byte_store_same (p : Plane) (t : Slot) (o : Nat) (n : Width) (v : Word) (k : Nat) :
    p.byte (p.store t o n v) k =
      if o ≤ k ∧ k < o + n.bytes then v.extractLsb' (8 * (k - o)) 8 else p.byte t k := by
  cases p <;> simp only [Plane.byte, Plane.store, Slot.pixByte, Slot.alpByte, Slot.selByte, memGet_planeStore] <;>
    split <;> rfl

theorem Plane.byte_store_other {p q : Plane} (h : q ≠ p) (t : Slot) (o : Nat) (n : Width) (v : Word) (k : Nat) :
    q.byte (p.store t o n v) k = q.byte t k := by
  cases p <;> cases q
  case pix.pix | alp.alp | sel.sel => exact absurd rfl h
  all_goals rfl

theorem Plane.store_frame (p : Plane) (t : Slot) (o : Nat) (n : Width) (v : Word) :
    p.store t o n v =
      { t with pix := (p.store t o n v).pix, alp := (p.store t o n v).alp, sel := (p.store t o n v).sel } := by
  cases p <;> rfl

/-! ### Plane addresses -/

theorem Plane.region_injective {p q : Plane} (h : q ≠ p) : q.region ≠ p.region := by
  cases p <;> cases q
  case pix.pix | alp.alp | sel.sel => exact absurd rfl h
  all_goals decide

/-- Where a plane address lies: the byte it names, and the address that the map gives that byte. -/
theorem plane_of_locate {a : Word} (h : (locate .default a).isPlane = true) :
    ∃ (p : Plane) (t : SlotNo) (o : Nat), locate .default a = p.loc t o ∧ o < 2 ^ 24 ∧ t.val < 8 ∧
      a.toNat = p.region * 2 ^ 28 + t.val * 2 ^ 24 + o := by
  obtain ⟨p, t, o, hl⟩ := exists_plane_of_isPlane h
  refine ⟨p, t, o, hl, ?_, t.isLt, ?_⟩
  · have hfits := locate_fits (cfg := .default) a
    rw [hl] at hfits
    cases p <;> exact hfits
  · have ha := (locate_address (cfg := .default) a).resolve_left (hl ▸ p.loc_ne_unmapped t o)
    rw [← ha, hl, p.address_loc]

theorem legal_one {a : Word} {p : Plane} {t : SlotNo cfg} {o : Nat} (hl : locate cfg a = p.loc t o)
    (ho : o < cfg.planeBytes) : legal cfg a .one = true := by
  have hu := p.loc_ne_unmapped t o
  simp only [legal, hl, p.isPlane_loc, p.offset_loc, Width.bytes]
  simp [hu, Nat.mod_one, Nat.succ_le_iff.mpr ho]

/-- A byte read of a plane with no command in progress. -/
theorem memRead_plane_byte {s : State} {a : Word} {p : Plane} {t : SlotNo} {o : Nat} (hs : s.busy = false)
    (hl : locate .default a = p.loc t o) (ho : o < 2 ^ 24) :
    memRead s a .one = (p.byte (s.slot t) o).setWidth 32 := by
  rw [memRead_of_idle hs (legal_one hl ho), hl, readLoc_plane]
  rfl

/-- The address `k` bytes on names the byte `k` further in the same plane. -/
theorem locate_add {a : Word} {p : Plane} {t : SlotNo} {o : Nat}
    (ha : a.toNat = p.region * 2 ^ 28 + t.val * 2 ^ 24 + o) {k : Nat} (hk : o + k < 2 ^ 24) :
    locate .default (a + BitVec.ofNat 32 k) = p.loc t (o + k) := by
  refine locate_plane hk ?_
  have ht : t.val < 8 := t.isLt
  have hr : p.region ≤ 4 := by cases p <;> decide
  rw [BitVec.toNat_add, BitVec.toNat_ofNat, ha]
  omega

/-! ### The statements about planes -/

/-- Settles O54: a store changes its bytes, and an address names one byte of one plane of one slot. -/
theorem planeWritesReadBack : Obligations.PlaneWritesReadBack := by
  intro s a n v hs hp hlegal t
  obtain ⟨p, i, o, hl, _, hi, ha⟩ := plane_of_locate hp
  have hbound : o + n.bytes ≤ 2 ^ 24 := by
    have h := plane_bound_of_legal hlegal hp
    rwa [hl, p.offset_loc] at h
  have ht : t = s.withSlot i (p.store (s.slot i) o n v) := by
    rw [← writeLoc_plane, ← hl]
    exact hostWrite_of_legal v hlegal (by simp [hs])
  have htb : t.busy = false := by rw [ht]; exact hs
  refine ⟨fun b hb => ?readBack, by rw [ht]; rfl, fun j => ?frame⟩
  case readBack =>
    obtain ⟨q, u, k, hlb, hk, hu, hb⟩ := plane_of_locate hb
    rw [memRead_plane_byte htb hlb hk, memRead_plane_byte hs hlb hk, ht]
    by_cases hui : u = i
    · subst hui
      rw [State.slot_withSlot_same]
      by_cases hqp : q = p
      · subst hqp
        rw [q.byte_store_same, show b.toNat - a.toNat = k - o by omega]
        by_cases hin : o ≤ k ∧ k < o + n.bytes
        · rw [if_pos hin, if_pos (by omega)]
        · rw [if_neg hin, if_neg (by omega)]
      · have := Plane.region_injective hqp
        rw [Plane.byte_store_other hqp, if_neg (by omega)]
    · have : u.val ≠ i.val := fun h => hui (Fin.ext h)
      rw [State.slot_withSlot_other s hui, if_neg (by omega)]
  case frame =>
    rw [ht]
    by_cases hj : j = i
    · subst hj
      rw [State.slot_withSlot_same]
      exact p.store_frame _ _ _ _
    · rw [State.slot_withSlot_other s hj]

/-- Two bytes side by side (20_memory.md R69). -/
theorem append_two (x y : Byte) : (y ++ x).setWidth 32 = x.setWidth 32 ||| (y.setWidth 32 <<< 8) := by
  apply BitVec.eq_of_getLsbD_eq
  intro k hk
  simp only [BitVec.getLsbD_setWidth, BitVec.getLsbD_append, BitVec.getLsbD_or, BitVec.getLsbD_shiftLeft]
  interval_cases k <;> simp

/-- Four bytes side by side (20_memory.md R69). -/
theorem append_four (x y z w : Byte) :
    w ++ z ++ y ++ x =
      x.setWidth 32 ||| (y.setWidth 32 <<< 8) ||| (z.setWidth 32 <<< 16) ||| (w.setWidth 32 <<< 24) := by
  apply BitVec.eq_of_getLsbD_eq
  intro k hk
  simp only [BitVec.getLsbD_setWidth, BitVec.getLsbD_append, BitVec.getLsbD_or, BitVec.getLsbD_shiftLeft]
  interval_cases k <;> simp

/-- Settles O55: each byte of a wider read is the byte at its own address. -/
theorem planeReadsAreLittleEndian : Obligations.PlaneReadsAreLittleEndian := by
  intro s a hs hp
  obtain ⟨p, i, o, hl, ho, _, ha⟩ := plane_of_locate hp
  have hbound : ∀ {n : Width}, legal .default a n = true → o + n.bytes ≤ 2 ^ 24 := fun hlegal => by
    have h := plane_bound_of_legal hlegal hp
    rwa [hl, p.offset_loc] at h
  have hwide : ∀ {n : Width}, legal .default a n = true → memRead s a n = planeWord (p.byte (s.slot i)) o n :=
    fun hlegal => by rw [memRead_of_idle hs hlegal, hl, readLoc_plane]
  have hbyte : ∀ {k : Nat}, o + k < 2 ^ 24 →
      memRead s (a + BitVec.ofNat 32 k) .one = (p.byte (s.slot i) (o + k)).setWidth 32 :=
    fun hk => memRead_plane_byte hs (locate_add ha hk) hk
  have hbyte0 : memRead s a .one = (p.byte (s.slot i) o).setWidth 32 := memRead_plane_byte hs hl ho
  refine ⟨fun hlegal => ?two, fun hlegal => ?four⟩
  case two =>
    have hb : o + 2 ≤ 2 ^ 24 := hbound hlegal
    rw [hwide hlegal, hbyte0, hbyte (by omega)]
    exact append_two _ _
  case four =>
    have hb : o + 4 ≤ 2 ^ 24 := hbound hlegal
    rw [hwide hlegal, hbyte0, hbyte (by omega), hbyte (by omega), hbyte (by omega)]
    exact append_four _ _ _ _

end Sys2Proof.Machine

/-! A host read in the middle of a command (O25): the engine computes from CTRL, KRAM, the slots and where the command
stands; a pause and a read change none of the first three, and leave the command on the way to the same ending. -/

namespace Sys2Proof.Machine

variable {cfg : Config}

/-! ### What a command's computation does not depend on -/

/-- The state `s` with PROGRESS, the command in progress, and the host's program and record of `v`. -/
def State.onto (s v : State cfg) : State cfg :=
  { s with progress := v.progress, job := v.job, host := v.host, replies := v.replies, draws := v.draws }

/-- The state `s` with the host's program and record of `v`. -/
def State.withHostOf (s v : State cfg) : State cfg :=
  { s with host := v.host, replies := v.replies, draws := v.draws }

section

variable (s v : State cfg)

@[simp] theorem slot_onto (i : SlotNo cfg) : (s.onto v).slot i = s.slot i := rfl
@[simp] theorem coef_onto (n : Nat) : (s.onto v).coef n = s.coef n := rfl
@[simp] theorem sameFormat_onto (sa sb : SlotArg) (params : Bool) :
    (s.onto v).sameFormat sa sb params = s.sameFormat sa sb params := rfl
@[simp] theorem columnBody_onto (a d : SlotNo cfg) (w : List F64) (which : Nat → Nat → Bool) :
    columnBody (s.onto v) a d w which = columnBody s a d w which := rfl
@[simp] theorem fftPlan_onto (sa sb sc sd : SlotArg) (pow2 : Bool) :
    (s.onto v).fftPlan sa sb sc sd pow2 = s.fftPlan sa sb sc sd pow2 := rfl
@[simp] theorem planGrid_onto (p : FftPlan cfg) (pow2 : Bool) : (s.onto v).planGrid p pow2 = s.planGrid p pow2 := rfl
@[simp] theorem maskAt_onto (m : Option (SlotNo cfg)) : (s.onto v).maskAt m = s.maskAt m := rfl
@[simp] theorem optCheck_onto (sa sb : SlotArg) (method : BitVec 3) :
    (s.onto v).optCheck sa sb method = s.optCheck sa sb method := rfl
@[simp] theorem adaptCheck_onto (sa sb sc : SlotArg) (method : BitVec 3) (balance : Word) :
    (s.onto v).adaptCheck sa sb sc method balance = s.adaptCheck sa sb sc method balance := rfl
@[simp] theorem maskCheck_onto (sa sb sc : SlotArg) : (s.onto v).maskCheck sa sb sc = s.maskCheck sa sb sc := rfl
@[simp] theorem fillCheck_onto (sa : SlotArg) (index : Byte) :
    (s.onto v).fillCheck sa index = s.fillCheck sa index := rfl
@[simp] theorem traceCheck_onto (sa sb : SlotArg) : (s.onto v).traceCheck sa sb = s.traceCheck sa sb := rfl

end

/-- The answers `o v` of a command `i` in the states `s.onto v` are one: the same check fails in each, or the engine
takes the turn of the same body. -/
def Settled (i : Instr) (s : State) (o : State → Host.Outcome State Fault Refusal) : Prop :=
  (∃ code, ∀ v, o v = .next ((s.onto v).reject i code)) ∨
  (∃ b, CommandBody s i b ∧ ∀ v, o v = .next (runBody b (s.onto v)))

theorem rowCommand_settled {i : Instr} {sa sb : SlotArg} (hi : RowPolled sa sb i) (s : State) (params : Bool)
    (out : Slot → Nat → Nat → Nat → Nat) : Settled i s fun v => rowCommand (s.onto v) sa sb params out := by
  have hr : ∀ (u : State) code, u.reject i code = u.fail code := by cases hi <;> exact fun _ _ => rfl
  dsimp only [rowCommand, sameFormat_onto, slot_onto]
  cases hc : s.sameFormat sa sb params with
  | error e => exact .inl ⟨e, fun v => by rw [hr]⟩
  | ok p => exact .inr ⟨_, .rows _ hi hc, fun _ => rfl⟩

/-- What a command computes does not depend on where it stands, nor on what the host has read. -/
theorem exec_settled (i : Instr) (s : State) : Settled i s fun v => exec i (s.onto v) := by
  cases i with
  | filter sa sb k factor bias =>
    dsimp only [exec, execFilter, coef_onto]
    exact rowCommand_settled (.filter k factor bias) s _ _
  | erode sa sb k =>
    dsimp only [exec, execErode]
    exact rowCommand_settled (.erode k) s _ _
  | dilate sa sb k =>
    dsimp only [exec, execDilate]
    exact rowCommand_settled (.dilate k) s _ _
  | edge sa sb k =>
    dsimp only [exec, execEdge]
    exact rowCommand_settled (.edge k) s _ _
  | contour sa sb =>
    dsimp only [exec, execContour]
    exact rowCommand_settled .contour s _ _
  | unsharp sa sb radius amount threshold =>
    dsimp only [exec, execUnsharp]
    exact rowCommand_settled (.unsharp radius amount threshold) s _ _
  | median sa sb k =>
    dsimp only [exec, execMedian]
    exact rowCommand_settled (.median k) s _ _
  | gaussblur sa sb radius =>
    dsimp only [exec, execGaussblur, sameFormat_onto, columnBody_onto, slot_onto]
    cases hc : s.sameFormat sa sb (radiusOk .default (F64.ofF32 radius)) with
    | error e => exact .inl ⟨e, fun _ => rfl⟩
    | ok p => exact .inr ⟨_, .columns _ _ (.gaussblur radius) hc, fun _ => rfl⟩
  | selblur sa sb radius threshold =>
    dsimp only [exec, execSelblur, sameFormat_onto, columnBody_onto, slot_onto]
    cases hc : s.sameFormat sa sb (radiusOk .default (F64.ofF32 radius)) with
    | error e => exact .inl ⟨e, fun _ => rfl⟩
    | ok p => exact .inr ⟨_, .columns _ _ (.selblur radius threshold) hc, fun _ => rfl⟩
  | fft2 sa sb sc sd inv pow2 mag =>
    dsimp only [exec, execFft2, fftPlan_onto, planGrid_onto]
    cases hc : s.fftPlan sa sb sc sd pow2 with
    | error e => exact .inl ⟨e, fun _ => rfl⟩
    | ok p => exact .inr ⟨_, .fft2 _ _ hc, fun _ => rfl⟩
  | optthresh sa sb method box =>
    dsimp only [exec, execOptthresh, optCheck_onto, slot_onto, maskAt_onto]
    cases hc : s.optCheck sa sb method with
    | error e => exact .inl ⟨e, fun _ => rfl⟩
    | ok p =>
      dsimp only
      split
      · exact .inl ⟨.noThreshold, fun _ => rfl⟩
      · exact .inr ⟨_, .optthresh _ hc, fun _ => rfl⟩
  | adaptthresh sa sb sc method boxSize bias balance =>
    dsimp only [exec, execAdaptthresh, adaptCheck_onto, slot_onto, maskAt_onto]
    cases hc : s.adaptCheck sa sb sc method balance with
    | error e => exact .inl ⟨e, fun _ => rfl⟩
    | ok p =>
      obtain ⟨a, m, d⟩ := p
      dsimp only
      split
      · exact .inl ⟨.noThreshold, fun _ => rfl⟩
      · exact .inr ⟨_, .adaptthresh _ _ _ hc, fun _ => rfl⟩
  | threshmask sa sb sc =>
    dsimp only [exec, execThreshmask, maskCheck_onto, slot_onto]
    cases hc : s.maskCheck sa sb sc with
    | error e => exact .inl ⟨e, fun _ => rfl⟩
    | ok p =>
      obtain ⟨a, m, d⟩ := p
      dsimp only
      exact .inr ⟨_, .threshmask (fun x y => decide ((s.slot m).lane x y 0 < (s.slot a).grayvAs (s.slot a).cls x y)) hc,
        fun _ => rfl⟩
  | floodfill sa track x0 y0 color index tolerance opacity level =>
    dsimp only [exec, execFloodfill, fillCheck_onto]
    cases hc : s.fillCheck sa index with
    | error e => exact .inl ⟨e, fun _ => rfl⟩
    | ok p => exact .inr ⟨_, .floodfill hc, fun _ => rfl⟩
  | trace sa sb target traceColor =>
    dsimp only [exec, execTrace, traceCheck_onto, slot_onto]
    cases hc : s.traceCheck sa sb with
    | error e => exact .inl ⟨e, fun _ => rfl⟩
    | ok p => exact .inr ⟨_, .trace _ hc, fun _ => rfl⟩

/-! ### Completions that differ in the host's record alone -/

theorem writeTarget_onto (u v : State cfg) (t : Option (SlotNo cfg)) (w h : Nat) (f : Nat → Nat → Nat) :
    (u.onto v).writeTarget t w h f = (u.writeTarget t w h f).onto v := by
  cases t <;> rfl

/-- The units of a body write no field that `State.onto` replaces. -/
theorem CommandBody.finished_onto {s : State} {i : Instr} {b : Body .default} (hb : CommandBody s i b) (u v : State) :
    b.finished (u.onto v) = (b.finished u).onto v := by
  cases hb with
  | fft2 re im hc => simp only [wholeBody, writeTarget_onto]
  | _ => rfl

theorem CommandBody.stopped_onto {s : State} {i : Instr} {b : Body .default} (hb : CommandBody s i b) (k : Nat)
    (u v : State) : b.stopped k (u.onto v) = (b.stopped k u).onto v := by
  cases hb <;> rfl

theorem reject_onto {s v : State} (hv : v.progress = s.progress) (i : Instr) (code : ErrCode) :
    (s.onto v).reject i code = (s.reject i code).withHostOf v := by
  unfold State.reject State.failThreshold State.fail State.complete State.withHostOf State.onto
  rw [hv]
  split <;> rfl

/-- A body concludes alike in two states that differ in no input of it, where the last poll's PROGRESS is the same. -/
theorem CommandBody.conclude_onto {s : State} {i : Instr} {b : Body .default} (hb : CommandBody s i b) {v : State}
    {e : Ending} (hp : (s.onto v).progressAt b.units (e.position b.units) = s.progressAt b.units (e.position b.units)) :
    b.conclude (s.onto v) e = (b.conclude s e).withHostOf v := by
  unfold Body.conclude
  rw [hp]
  cases e with
  | failed j => rfl
  | cancelled k =>
    have hstop := hb.stopped_onto k s
    exact (congrArg (State.complete · .ok true)
      (hstop { v with progress := s.progressAt b.units (Ending.position b.units (.cancelled k)) })).trans
      (congrArg (fun u => (State.complete u .ok true).withHostOf v)
        (hstop { s with progress := s.progressAt b.units (Ending.position b.units (.cancelled k)) }).symm)
  | completed => exact congrArg (State.complete · .ok false) (hb.finished_onto s v)

/-! ### A command that has paused is on the way to the same ending -/

/-- The first failure among the units from `k` on is the first among those from `m` on, where none lies before `m`. -/
theorem firstFailure_from {fails : Nat → Bool} {k m stop : Nat} (hkm : k ≤ m) (hms : m ≤ stop)
    (h : ∀ j, firstFailure fails k stop = some j → m ≤ j) : firstFailure fails m stop = firstFailure fails k stop := by
  have hsplit : firstFailure fails k stop = (firstFailure fails k m).or (firstFailure fails m stop) := by
    unfold firstFailure
    rw [← List.find?_append]
    have : List.range' k (m - k) ++ List.range' m (stop - m) = List.range' k (stop - k) := by
      have := List.range'_append_1 (s := k) (m := m - k) (n := stop - m)
      rwa [show k + (m - k) = m by omega, show m - k + (stop - m) = stop - k by omega] at this
    rw [this]
  cases hf : firstFailure fails k m with
  | none => rw [hsplit, hf]; rfl
  | some j =>
    have hj : firstFailure fails k stop = some j := by rw [hsplit, hf]; rfl
    have := (firstFailure_some hf).2.1
    have := h j hj
    omega

/-- A body ends no later than at the poll after the units that run. -/
theorem ending_position_le_endUnit (b : Body cfg) (s : State cfg) :
    (b.ending s).position b.units ≤ 3 * s.endUnit b.units + 2 := by
  rcases ending_cases b s with ⟨j, h, _, hj, _⟩ | ⟨h, _, _⟩ | ⟨h, he, _⟩ <;>
    rw [h] <;> simp only [Ending.position] <;> omega

theorem phase_pause_stopping {s : State cfg} {j : Job} (hj : s.job = some j) {q n e : Nat} :
    (s.pause q n e).phase = .stopping ↔ q % 3 = 2 ∧ q / 3 = e := by
  rw [phase_pause hj]
  split_ifs <;> simp only [false_iff, true_iff] <;> omega

theorem phase_pause_passed {s : State cfg} {j : Job} (hj : s.job = some j) {q n e : Nat} :
    (s.pause q n e).phase = .passed ↔ q % 3 = 2 ∧ q / 3 ≠ e := by
  rw [phase_pause hj]
  split_ifs <;> simp only [false_iff, true_iff] <;> omega

/-- A pause does not move the end of the units that run: whatever CANCEL and the phase are, the engine comes to the
same poll, which is arithmetic of positions. -/
theorem endUnit_pause {s : State cfg} {j : Job} (hj : s.job = some j) {q n : Nat} (hs : s.position ≤ q)
    (hn : q ≤ 3 * n) (he : q ≤ 3 * s.endUnit n + 2) : (s.pause q n (s.endUnit n)).endUnit n = s.endUnit n := by
  have hend : s.endUnit n = if s.phase = .stopping ∨ s.cancel = true then
      min (if s.phase = .passed then s.unitsDone + 1 else s.unitsDone) n else n := rfl
  have hpos : 3 * s.unitsDone + s.phase.steps ≤ q := hs
  generalize s.endUnit n = e at *
  have hpaused : (s.pause q n e).endUnit n = if (s.pause q n e).phase = .stopping ∨ s.cancel = true then
      min (if (s.pause q n e).phase = .passed then q / 3 + 1 else q / 3) n else n := by
    rw [← unitsDone_pause hj q n e]; rfl
  simp only [hpaused, phase_pause_stopping hj, phase_pause_passed hj]
  cases hc : s.cancel <;> cases hp : s.phase <;>
    simp only [hc, hp, Phase.steps, reduceCtorEq, or_true, or_false, Bool.false_eq_true, if_true,
      if_false] at hend hpos ⊢ <;>
    split_ifs <;> omega

/-- A pause does not change how the body ends. -/
theorem ending_pause {b : Body cfg} {s : State cfg} {j : Job} (hj : s.job = some j) {q : Nat} (hs : s.position ≤ q)
    (hq : q ≤ (b.ending s).position b.units) :
    b.ending (s.pause q b.units (s.endUnit b.units)) = b.ending s := by
  have hn := hq.trans (ending_position_le b s)
  have he := hq.trans (ending_position_le_endUnit b s)
  have hunits : s.unitsDone ≤ q / 3 := by rw [← position_div]; exact Nat.div_le_div_right hs
  have hfirst : firstFailure b.fails (q / 3) (s.endUnit b.units) =
      firstFailure b.fails s.unitsDone (s.endUnit b.units) := by
    refine firstFailure_from hunits (by omega) fun k hk => ?_
    have : b.ending s = .failed k := by simp only [Body.ending, hk]
    rw [this] at hq
    simp only [Ending.position] at hq
    omega
  unfold Body.ending
  rw [endUnit_pause hj hs hn he, unitsDone_pause hj, hfirst]

/-- PROGRESS of the last poll does not depend on a pause on the way there. -/
theorem progressAt_pause {s : State cfg} (hb : s.busy = true) {q n e p : Nat} (hs : s.position ≤ q) (hq : q ≤ p) :
    (s.pause q n e).progressAt n p = s.progressAt n p := by
  have hpos := position_pause hb q n e
  unfold State.progressAt
  rw [hpos, State.pause_progress]
  unfold State.progressAt
  simp only
  by_cases hlast : q < 3 * ((p - 1) / 3) + 1 ∧ 3 * ((p - 1) / 3) + 1 ≤ p
  · rw [if_pos hlast, if_pos (by omega)]
  · rw [if_neg hlast]
    by_cases hp : 3 * ((p - 1) / 3) + 1 ≤ p
    · rw [show (q - 1) / 3 = (p - 1) / 3 by omega]
      by_cases h : s.position < 3 * ((p - 1) / 3) + 1
      · rw [if_pos (by omega), if_pos (by omega)]
      · rw [if_neg (by omega), if_neg (by omega)]
    · rw [if_neg (by omega), if_neg (by omega)]

/-- In the state `u` the body `b`, which the engine has taken up in `s`, is on the way to the ending it has from `s`:
no input of the body has changed, and the last poll will leave the same PROGRESS. -/
structure OnTheWay (b : Body .default) (s u : State) : Prop where
  inputs : s.onto u = u
  ending : b.ending u = b.ending s
  progress : u.progressAt b.units ((b.ending s).position b.units) =
    s.progressAt b.units ((b.ending s).position b.units)

theorem onTheWay_withHostOf (b : Body .default) (s w : State) : OnTheWay b s (s.withHostOf w) := ⟨rfl, rfl, rfl⟩

/-- What the host has read, and what it does next, does not lead a command astray. -/
theorem OnTheWay.withHostOf {b : Body .default} {s u : State} (h : OnTheWay b s u) (w : State) :
    OnTheWay b s (u.withHostOf w) :=
  ⟨congrArg (State.withHostOf · w) h.inputs, h.ending, h.progress⟩

theorem onTheWay_pause {b : Body .default} {s : State} {j : Job} (hj : s.job = some j) {q : Nat}
    (hs : s.position ≤ q) (hq : q ≤ (b.ending s).position b.units) :
    OnTheWay b s (s.pause q b.units (s.endUnit b.units)) :=
  ⟨rfl, ending_pause hj hs hq, progressAt_pause (by simp [State.busy, hj]) hs hq⟩

/-- A pause keeps the latched block. -/
theorem latched_pause {s : State cfg} {j : Job} (hj : s.job = some j) (q n e : Nat) :
    ∃ k, (s.pause q n e).job = some k ∧ k.cmd = j.cmd := by
  simp [State.pause, hj]

/-- A body on its way concludes as it would have from the start, unless the host acts first. -/
theorem CommandBody.runBody_onTheWay {s u : State} {i : Instr} {b : Body .default} (hb : CommandBody s i b)
    (h : OnTheWay b s u) (hq : ∀ q, u.nextStop = some q → (b.ending s).position b.units < q) :
    runBody b u = (b.conclude s (b.ending s)).withHostOf u := by
  have hp := h.progress
  rcases runBody_cases b u with ⟨_, hr⟩ | ⟨q, hstop, hle, _⟩
  · rw [hr, h.ending]
    have hc := hb.conclude_onto (v := u) (e := b.ending s)
    rw [h.inputs] at hc
    exact hc hp
  · have := hq q hstop
    rw [h.ending] at hle
    omega

theorem nextStop_of_quiet {u : State cfg} (h : u.host = []) : u.nextStop = none := by
  simp only [State.nextStop, h]

/-- How a command in progress ends when the host leaves it alone, and that one host event `e` on the way, if it is no
more than a change of the host's record, leaves it that ending: the engine concludes the command before the event is due,
or pauses for it, and concludes it afterwards. -/
structure EndsAs (i : Instr) (s c : State) (j : Job) : Prop where
  idle : c.job = none
  undisturbed : ∀ w, w.host = [] → exec i (s.withHostOf w) = .next (c.withHostOf w)
  disturbed : ∀ e, exec i { s with host := [e] } = .next (c.withHostOf { s with host := [e] }) ∨
    ∃ p, exec i { s with host := [e] } = .next p ∧ p.host = [{ e with wait := 0 }] ∧
      p.replies = s.replies ∧ p.draws = s.draws ∧ (∃ k, p.job = some k ∧ k.cmd = j.cmd) ∧
      ∀ w, w.host = [] → exec i (p.withHostOf w) = .next (c.withHostOf w)

theorem CommandBody.endsAs {s : State} {i : Instr} {b : Body .default} {j : Job} (hb : CommandBody s i b)
    (hexec : ∀ v, exec i (s.onto v) = .next (runBody b (s.onto v))) (hj : s.job = some j) :
    EndsAs i s (b.conclude s (b.ending s)) j := by
  have hrun : ∀ {u : State}, OnTheWay b s u → exec i u = .next (runBody b u) := fun {u} h => by
    have := hexec u
    rwa [h.inputs] at this
  have halone : ∀ {u : State}, OnTheWay b s u → u.host = [] →
      exec i u = .next ((b.conclude s (b.ending s)).withHostOf u) := fun h hh => by
    rw [hrun h, hb.runBody_onTheWay h]
    simp [nextStop_of_quiet hh]
  refine ⟨?idle, fun w hw => halone (onTheWay_withHostOf b s w) hw, fun e => ?disturbed⟩
  case idle => exact busy_eq_false.mp hb.conclude_concludes.busy
  case disturbed =>
    have hway : OnTheWay b s { s with host := [e] } := onTheWay_withHostOf b s { s with host := [e] }
    have hstop : ({ s with host := [e] } : State).nextStop = some (s.position + e.wait) := rfl
    by_cases hq : s.position + e.wait ≤ (b.ending s).position b.units
    · right
      let p : State := (s.pause (s.position + e.wait) b.units (s.endUnit b.units)).withHostOf
        { s with host := [{ e with wait := 0 }] }
      have hpause : OnTheWay b s p := (onTheWay_pause hj (Nat.le_add_right _ _) hq).withHostOf _
      refine ⟨p, ?_, rfl, rfl, rfl, latched_pause hj (s.position + e.wait) b.units (s.endUnit b.units),
        fun w hw => halone (hpause.withHostOf w) hw⟩
      rw [hrun hway, runBody, hstop]
      exact congrArg Host.Outcome.next (if_pos hq)
    · left
      rw [hrun hway, hb.runBody_onTheWay hway]
      intro q h
      rw [hstop] at h
      cases h
      omega

/-- A command that fails its checks completes at once, and so before any host event that is still to wait for. -/
theorem reject_endsAs {s : State} {i : Instr} {code : ErrCode} (j : Job)
    (hexec : ∀ v, exec i (s.onto v) = .next ((s.onto v).reject i code)) : EndsAs i s (s.reject i code) j := by
  have halone : ∀ w, exec i (s.withHostOf w) = .next ((s.reject i code).withHostOf w) := fun w =>
    (hexec (s.withHostOf w)).trans (congrArg Host.Outcome.next (reject_onto (s := s) (v := s.withHostOf w) rfl i code))
  exact ⟨busy_eq_false.mp (reject_concludes i s code).busy, fun w _ => halone w,
    fun e => .inl (halone { s with host := [e] })⟩

/-- Every command in progress ends as it would if the host left it alone. -/
theorem exists_endsAs {s : State} {j : Job} (hj : s.job = some j) (i : Instr) : ∃ c, EndsAs i s c j := by
  rcases exec_settled i s with ⟨code, h⟩ | ⟨b, hb, h⟩
  · exact ⟨_, reject_endsAs j h⟩
  · exact ⟨_, hb.endsAs h hj⟩

/-! ### A run with one read -/

theorem core_run_succ {s u : State} (h : step s = .next u) (k : Nat) :
    Host.Core.run Sys2Proof.core (k + 1) s = Host.Core.run Sys2Proof.core k u := by
  have hrun : ∀ (M : Host.Core) {x y : M.State}, M.step x = .next y → M.run (k + 1) x = M.run k y :=
    fun M x y hx => by simp only [Host.Core.run, hx]
  exact hrun Sys2Proof.core h

/-- The step of a host read that is due. -/
theorem step_read {s : State} {wait : Nat} {a : Word} {n : Width} {rest : List HostEvent}
    (hh : s.host = ⟨wait, .read a n⟩ :: rest) (h : s.job = none ∨ wait = 0) :
    step s = .next (hostRead { s with host := rest } a n) :=
  (stepRunsTheLatchedCommand s).2.1 _ _ hh h

/-- The engine's step where no host event is due. -/
theorem step_engine {s : State} {j : Job} {i : Instr} (hj : s.job = some j) (hd : decode j.cmd = .ok i)
    (hw : ∀ e ∈ s.host.head?, 0 < e.wait) : step s = exec i s :=
  (stepRunsTheLatchedCommand s).1 j i hj hw hd

/-- Settles O25: the read comes before the engine's next step, or where the command pauses, or after its completion. -/
theorem aReadWhileBusyDoesNotDisturb : Obligations.AReadWhileBusyDoesNotDisturb := by
  intro s j i wait a n hj hd hh
  obtain ⟨c, hc⟩ := exists_endsAs hj i
  have hquiet : ∀ {u : State} {k : Job}, u.job = some k → k.cmd = j.cmd → u.host = [] → step u = exec i u :=
    fun {u k} hk hcmd hu => step_engine hk (hcmd ▸ hd) (by simp [hu])
  refine ⟨c.withHostOf s, ?_⟩
  have ht : step s = .next (c.withHostOf s) := (hquiet hj rfl hh).trans (hc.undisturbed s hh)
  have hread : ∀ {u : State}, u.host = [] → u.replies = s.replies → u.draws = s.draws → ∀ r,
      c.withHostOf { u with replies := r :: u.replies, draws := u.draws + 1 } =
        { c.withHostOf s with
          replies := r :: (c.withHostOf s).replies, draws := (c.withHostOf s).draws + 1 } := by
    intro u h1 h2 h3 r
    simp only [State.withHostOf, h1, h2, h3, hh]
  by_cases hw : wait = 0
  · let s' : State := { s with host := [] }
    refine ⟨2, memRead s' a n, ht, ?_⟩
    rw [core_run_succ (step_read rfl (.inr hw)),
      core_run_succ ((hquiet (u := hostRead s' a n) hj rfl rfl).trans (hc.undisturbed (hostRead s' a n) rfl))]
    exact congrArg Host.Outcome.next (hread (u := s') rfl rfl rfl _)
  · let s₁ : State := { s with host := [⟨wait, .read a n⟩] }
    have hengine : step s₁ = exec i s₁ := step_engine hj hd (by simp [s₁]; omega)
    rcases hc.disturbed ⟨wait, .read a n⟩ with hx | ⟨p, hx, hph, hpr, hpd, ⟨k, hk, hcmd⟩, hp⟩
    · let t : State := c.withHostOf { s with host := [] }
      refine ⟨2, memRead t a n, ht, ?_⟩
      rw [core_run_succ (hengine.trans hx), core_run_succ (step_read (s := c.withHostOf s₁) rfl (.inl hc.idle))]
      exact congrArg Host.Outcome.next (hread (u := { s with host := [] }) rfl rfl rfl _)
    · let p' : State := { p with host := [] }
      refine ⟨3, memRead p' a n, ht, ?_⟩
      rw [core_run_succ (hengine.trans hx), core_run_succ (step_read hph (.inr rfl)),
        core_run_succ ((hquiet (u := hostRead p' a n) hk hcmd rfl).trans (hp (hostRead p' a n) rfl))]
      exact congrArg Host.Outcome.next (hread (u := p') rfl hpr hpd _)

end Sys2Proof.Machine

end

section

/-! The encoding of commands (O6, O7, O8) and the completion of a block that is no command (O11): the fields of a
command word, the decoder opcode by opcode, and what follows of whole blocks. -/

namespace Sys2Proof

/-! ### Fields of a word put together from its fields -/

/-- CMD0 splits into the fields it was put together from (30_encoding.md R86). -/
@[simp] theorem cmdFields_cmdWord (opc : Byte) (sa sb sc sd : BitVec 4) (flg : Byte) :
    cmdFields (cmdWord opc sa sb sc sd flg) = ⟨opc, sa, sb, sc, sd, flg⟩ := by
  simp only [cmdFields, CmdFields.mk.injEq]
  refine ⟨?opc, ?sa, ?sb, ?sc, ?sd, ?flg⟩
  all_goals
    refine Machine.extractLsb'_eq_of_bits fun k hk => ?_
    simp only [cmdWord, BitVec.getLsbD_append]
    grind

/-- A well-formed slot argument is read back from its field (R87). -/
theorem slotArg_slotField {a : SlotArg} (h : a.wf = true) : slotArg (slotField a) = a := by
  cases a with
  | null => rfl
  | slot n =>
    have hn : n ≤ 14 := of_decide_eq_true h
    have hf : (BitVec.ofNat 4 n).toNat = n := by rw [BitVec.toNat_ofNat]; omega
    have hne : BitVec.ofNat 4 n ≠ 0xF#4 := fun he => by
      have := congrArg BitVec.toNat he
      rw [hf] at this
      have : n = 15 := this
      omega
    simp only [slotField, slotArg, if_neg hne, hf]

/-- What a slot field is read as is well-formed, whatever the field (R87). -/
@[simp] theorem slotArg_wf (f : BitVec 4) : (slotArg f).wf = true := by
  unfold slotArg
  split
  · rfl
  · next hne =>
    have hf : f.toNat ≠ 15 := fun he => hne (BitVec.eq_of_toNat_eq he)
    exact decide_eq_true (by have := f.isLt; omega)

/-- An operand narrower than its word is read back from it. -/
@[simp] theorem extractLsb'_setWidth_word {n : Nat} (x : BitVec n) (h : n ≤ 32) :
    (x.setWidth 32).extractLsb' 0 n = x := by
  rw [BitVec.extractLsb'_setWidth_of_le (by omega), BitVec.extractLsb'_eq_self]

@[simp] theorem extractLsb'_byteWord (b : Byte) : (byteWord b).extractLsb' 0 8 = b :=
  extractLsb'_setWidth_word b (by decide)

@[simp] theorem loHalf_append (hi lo : BitVec 16) : loHalf (hi ++ lo) = lo := BitVec.extractLsb'_append_eq_right

@[simp] theorem hiHalf_append (hi lo : BitVec 16) : hiHalf (hi ++ lo) = hi := BitVec.extractLsb'_append_eq_left

/-- The bytes of a word put together from four of them. -/
theorem extractLsb'_bytes (b3 b2 b1 b0 : Byte) :
    (b3 ++ b2 ++ b1 ++ b0 : Word).extractLsb' 0 8 = b0 ∧ (b3 ++ b2 ++ b1 ++ b0 : Word).extractLsb' 8 8 = b1 ∧
      (b3 ++ b2 ++ b1 ++ b0 : Word).extractLsb' 16 8 = b2 ∧ (b3 ++ b2 ++ b1 ++ b0 : Word).extractLsb' 24 8 = b3 := by
  refine ⟨?byte0, ?byte1, ?byte2, ?byte3⟩
  all_goals
    refine Machine.extractLsb'_eq_of_bits fun k hk => ?_
    simp only [BitVec.getLsbD_append]
    grind

/-- A colour is read back from its word, whatever stands above it (R89). -/
@[simp] theorem rgbArg_rgbWord (c : Color) (top : Byte) : rgbArg (rgbWord c top) = c := by
  simp only [rgbArg, rgbWord, extractLsb'_bytes]

/-- The byte above a colour is read back from bits [31:24] (R99). -/
@[simp] theorem extractLsb'_rgbWord (c : Color) (top : Byte) : (rgbWord c top).extractLsb' 24 8 = top := by
  simp only [rgbWord, extractLsb'_bytes]

/-- Each flag is read back from its bit (R103). -/
theorem getElem_flagByte (f0 f1 f2 : Bool) :
    (flagByte f0 f1 f2)[0] = f0 ∧ (flagByte f0 f1 f2)[1] = f1 ∧ (flagByte f0 f1 f2)[2] = f2 := by
  revert f0 f1 f2; decide

/-- A flag byte sets none of the flags from 3 on. -/
theorem flagByte_undefined (f0 f1 f2 : Bool) : flagByte f0 f1 f2 &&& 0xF8#8 = 0#8 := by
  revert f0 f1 f2; decide

/-- The flag byte of one flag sets none of the others. -/
theorem flagByte_single_undefined (f0 : Bool) : flagByte f0 false false &&& 0xFE#8 = 0#8 := by
  revert f0; decide

/-! ### The checks of CMD0 -/

/-- A block passes R105's checks exactly when its unused slot fields are 0xF and its undefined flags 0. -/
theorem checked_eq_ok {f : CmdFields} {unused : List (BitVec 4)} {defined : Byte} {i j : Instr} :
    checked f unused defined i = .ok j ↔ (∀ u ∈ unused, u = 0xF#4) ∧ f.flg &&& ~~~defined = 0#8 ∧ i = j := by
  have hany : (unused.any fun u => u != 0xF#4) = true ↔ ¬ ∀ u ∈ unused, u = 0xF#4 := by simp
  unfold checked
  split_ifs with hu hf
  · exact iff_of_false nofun fun h => hany.mp hu h.1
  · exact iff_of_false nofun fun h => bne_iff_ne.mp hf h.2.1
  · have hslots : ∀ u ∈ unused, u = 0xF#4 := not_not.mp fun h => hu (hany.mpr h)
    have hflags : f.flg &&& ~~~defined = 0#8 := by simpa using hf
    simp only [hflags, true_and, Except.ok.injEq]
    exact (and_iff_right hslots).symm

/-! ### Decoding an encoded command -/

/-- Settles O6: command by command, CMD0 splits into its fields, they pass the checks, and each operand is read back. -/
theorem decodeOfEncode : Obligations.DecodeOfEncode := by
  intro i hi
  cases i
  all_goals simp only [Instr.wf, Bool.and_eq_true] at hi
  case fft2 => simp [decode, encode, block, checked_eq_ok, slotArg_slotField, hi, getElem_flagByte, flagByte_undefined]
  case optthresh sa sb method box =>
    cases box
    all_goals simp [decode, encode, block, cmdWord2, checked_eq_ok, slotArg_slotField, hi]
  case floodfill =>
    simp [decode, encode, block, checked_eq_ok, slotArg_slotField, hi, getElem_flagByte, flagByte_single_undefined,
      extractLsb'_bytes]
  case adaptthresh | threshmask => simp [decode, encode, block, checked_eq_ok, slotArg_slotField, hi]
  -- the same-format commands, whose CMD0 names two slots
  all_goals simp [decode, encode, block, cmdWord2, checked_eq_ok, slotArg_slotField, hi]

/-! ### Which blocks are commands -/

/-- The opcode of a block. -/
def CmdBlock.opcode (c : CmdBlock) : Nat := (cmdFields c.w0).opc.toNat

/-- The opcodes of the table (R101). -/
def opcodes : List Nat := [1, 2, 3, 4, 5, 6, 7, 8, 9, 0x10, 0x18, 0x19, 0x1A, 0x20, 0x21]

/-- The slot fields that an opcode of the table does not use (R102, R105). -/
def unusedSlots (f : CmdFields) : List (BitVec 4) :=
  match f.opc.toNat with
  | 0x10 => []
  | 0x19 => [f.sd]
  | 0x1A => [f.sd]
  | 0x20 => [f.sb, f.sc, f.sd]
  | _ => [f.sc, f.sd]

/-- The flags that an opcode of the table defines (R103). -/
def definedFlags : Nat → Byte
  | 0x10 => 7#8
  | 0x18 => 1#8
  | 0x20 => 1#8
  | _ => 0#8

/-- A block whose opcode is not in the table is no command (R104). -/
theorem decode_of_unknown {c : CmdBlock} (h : c.opcode ∉ opcodes) : decode c = .error .illegalOpcode := by
  unfold CmdBlock.opcode opcodes at h
  simp only [decode]
  split
  case h_16 => rfl
  all_goals next hn => simp [hn] at h

/-- A block with an opcode of the table is put to R105's checks, and what it stands for is well-formed. -/
theorem decode_of_known {c : CmdBlock} (h : c.opcode ∈ opcodes) :
    ∃ i, i.wf = true ∧ decode c = checked (cmdFields c.w0) (unusedSlots (cmdFields c.w0)) (definedFlags c.opcode) i := by
  unfold CmdBlock.opcode at *
  simp only [decode, unusedSlots]
  generalize (cmdFields c.w0).opc.toNat = n at h
  fin_cases h
  all_goals
    refine ⟨_, ?_, rfl⟩
    simp only [Instr.wf, slotArg_wf, Bool.and_self]

/-- What a block decodes to is well-formed. -/
theorem decode_wf {c : CmdBlock} {i : Instr} (h : decode c = .ok i) : i.wf = true := by
  by_cases hk : c.opcode ∈ opcodes
  · obtain ⟨j, hj, hd⟩ := decode_of_known hk
    obtain ⟨_, _, rfl⟩ := checked_eq_ok.mp (hd.symm.trans h)
    exact hj
  · rw [decode_of_unknown hk] at h; cases h

/-- Which blocks decode, by the opcode's unused slot fields and defined flags. -/
theorem exists_decode_eq_ok_iff (c : CmdBlock) :
    (∃ i, decode c = .ok i) ↔ c.opcode ∈ opcodes ∧ (∀ u ∈ unusedSlots (cmdFields c.w0), u = 0xF#4) ∧
      (cmdFields c.w0).flg &&& ~~~definedFlags c.opcode = 0#8 := by
  by_cases hk : c.opcode ∈ opcodes
  · obtain ⟨j, _, hd⟩ := decode_of_known hk
    simp [hd, checked_eq_ok, hk]
  · simp [decode_of_unknown hk, hk]

/-- A flag byte sets no flag but those of a mask of low flags exactly when it is a small number. -/
theorem flags_and_eq_zero (b : Byte) :
    (b &&& 0xF8#8 = 0#8 ↔ b.toNat < 8) ∧ (b &&& 0xFE#8 = 0#8 ↔ b.toNat < 2) ∧ (b &&& 0xFF#8 = 0#8 ↔ b = 0#8) := by
  revert b; decide

/-- The opcodes of the table by the slot fields and flags they do not use (R102, R103, R105). -/
theorem reserved_fields_iff (f : CmdFields) :
    (f.opc.toNat ∈ opcodes ∧ (∀ u ∈ unusedSlots f, u = 0xF#4) ∧ f.flg &&& ~~~definedFlags f.opc.toNat = 0#8) ↔
      ((f.opc.toNat ∈ [1, 2, 3, 4, 5, 6, 7, 8, 9, 0x21] ∧ (f.sc = 0xF#4 ∧ f.sd = 0xF#4) ∧ f.flg = 0#8) ∨
        (f.opc = 0x10#8 ∧ f.flg.toNat < 8) ∨
        (f.opc = 0x18#8 ∧ (f.sc = 0xF#4 ∧ f.sd = 0xF#4) ∧ f.flg.toNat < 2) ∨
        ((f.opc = 0x19#8 ∨ f.opc = 0x1A#8) ∧ f.sd = 0xF#4 ∧ f.flg = 0#8) ∨
        (f.opc = 0x20#8 ∧ f.sb = 0xF#4 ∧ (f.sc = 0xF#4 ∧ f.sd = 0xF#4) ∧ f.flg.toNat < 2)) := by
  have hopc : ∀ k : Byte, f.opc = k ↔ f.opc.toNat = k.toNat := fun k => BitVec.toNat_inj.symm
  simp only [hopc, unusedSlots]
  generalize f.opc.toNat = n
  by_cases hk : n ∈ opcodes
  · fin_cases hk
    all_goals simp [opcodes, definedFlags, flags_and_eq_zero, and_assoc]
  · simp only [opcodes, List.mem_cons, List.not_mem_nil, or_false, not_or] at hk
    simp [opcodes, hk]

/-! ### Operands that a format ignores -/

/-- A field of a word keeps its value when the word is masked with a mask that covers the field. -/
theorem extractLsb'_and_of_covers {w m : Word} {lo len : Nat} (h : m.extractLsb' lo len = BitVec.allOnes len) :
    (w &&& m).extractLsb' lo len = w.extractLsb' lo len := by
  rw [BitVec.extractLsb'_and, h, BitVec.and_allOnes]

/-- The mask of a word that a format uses whole. -/
theorem and_ones_word (w : Word) : w &&& 0xFFFFFFFF#32 = w := BitVec.and_allOnes

/-- The block with every bit of CMD1..CMD7 cleared that the format of its opcode does not use. -/
def CmdBlock.masked (c : CmdBlock) : CmdBlock :=
  let m := Machine.operandMask c.opcode ((cmdFields c.w0).flg.getLsbD 0)
  ⟨c.w0, c.w1 &&& m.w1, c.w2 &&& m.w2, c.w3 &&& m.w3, c.w4 &&& m.w4, 0#32, 0#32, 0#32⟩

/-- The words and bits that a format does not use are ignored (R90..R100). -/
theorem decode_masked (c : CmdBlock) : decode c.masked = decode c := by
  by_cases hk : c.opcode ∈ opcodes
  · simp only [CmdBlock.masked, decode]
    unfold CmdBlock.opcode at *
    generalize (cmdFields c.w0).opc.toNat = n at hk
    fin_cases hk
    all_goals
      simp (disch := decide) only [Machine.operandMask, block, extractLsb'_and_of_covers, and_ones_word, rgbArg, loHalf,
        hiHalf]
    -- what is left is OPTTHRESH, whose mask depends on the flag BOX
    by_cases hbox : (cmdFields c.w0).flg.getLsbD 0 = true
    all_goals
      simp (disch := decide) only [hbox, extractLsb'_and_of_covers, and_ones_word, Bool.false_eq_true, if_true,
        if_false]
  · rw [decode_of_unknown hk, decode_of_unknown (c := c.masked) hk]

/-- Settles O7: the acceptance by unused slot fields and defined flags, the masked block, and the read slot arguments. -/
theorem decodeChecksReservedFields : Obligations.DecodeChecksReservedFields := fun c =>
  ⟨(exists_decode_eq_ok_iff c).trans (reserved_fields_iff _), decode_masked c, fun _ => decode_wf⟩

/-- Settles O8: the decoder evaluates on each of the blocks. -/
theorem writtenWordsDecode : Obligations.WrittenWordsDecode := by
  refine ⟨?filter, ?fft2, ?optthresh, ?floodfill⟩
  all_goals decide

end Sys2Proof

namespace Sys2Proof.Machine

/-! ### A block that is no command -/

/-- The completion of a block that is no command: IllegalCommand, and only RESULT may change beside STATUS (R104,
R105). -/
theorem illegalCommand_completed (s : State) (c : CmdBlock) :
    Completed s (s.illegalCommand c) .illegalCommand false s.progress ∧ (s.illegalCommand c).slots = s.slots ∧
      (s.illegalCommand c).result = if writesResult c then minusOne else s.result := by
  unfold State.illegalCommand
  cases writesResult c
  all_goals exact ⟨⟨⟨rfl, rfl, rfl, rfl, fun _ => rfl, rfl, rfl, rfl⟩, rfl, rfl, rfl, rfl, rfl⟩, rfl, rfl⟩

/-- The opcodes whose failures set RESULT (60_exceptions.md R281). -/
theorem writesResult_iff (c : CmdBlock) :
    writesResult c = true ↔ c.w0.extractLsb' 0 8 = 0x18#8 ∨ c.w0.extractLsb' 0 8 = 0x19#8 := by
  simp [writesResult, cmdFields]

/-- The engine's step of a latched block that is no command. -/
theorem step_illegal {s : State} {j : Job} {e : DecodeError} (hj : s.job = some j)
    (hw : ∀ e ∈ s.host.head?, 0 < e.wait) (hd : decode j.cmd = .error e) :
    step s = .next (s.illegalCommand j.cmd) := by
  simp only [step, stepBy, turn_engine hj hw, hd]

/-- Settles O11: the step is `illegalCommand`, a completion that touches no slot. -/
theorem illegalBlockCompletes : Obligations.IllegalBlockCompletes := by
  intro s j e hj hw hd
  obtain ⟨hcompleted, hslots, hresult⟩ := illegalCommand_completed s j.cmd
  refine ⟨_, step_illegal hj hw hd, hcompleted, hslots, ?_⟩
  simp only [hresult, writesResult_iff]
  rfl

end Sys2Proof.Machine

end

section

/-! The acceptance of START (O10), and the slots that a command writes (O19). -/

namespace Sys2Proof.Machine

/-! ### START -/

/-- The write of CTRL that starts a command: CANCEL and IE take their new values, and then START is accepted
(10_state.md R26, 40_common.md R111). -/
theorem hostWrite_start {s : State} {v : Word} (hstart : v.getLsbD 0 = true) (hreset : v.getLsbD 31 = false)
    (hidle : s.busy = false) :
    hostWrite s 0x004#32 .four v = ({ s with cancel := v.getLsbD 1, ie := v.getLsbD 2 } : State).accept := by
  have hl : locate .default 0x004#32 = .ctrl := by decide
  rw [hostWrite_of_legal v (legal_four hl nofun rfl) (by rw [hl]; exact fun _ => rfl), hl]
  simp only [writeLoc, writeCtrl, hstart, hreset, hidle, Bool.false_eq_true, if_true, if_false]

/-- Settles O10: the written state is that of the acceptance, whose turn is the engine's. -/
theorem startIsAccepted : Obligations.StartIsAccepted := by
  intro s v hstart hreset hidle t
  have ht : t = ({ s with cancel := v.getLsbD 1, ie := v.getLsbD 2 } : State).accept :=
    hostWrite_start hstart hreset hidle
  have hjob : t.job = some ⟨s.cmd, 0, .toPoll⟩ := by rw [ht]; rfl
  refine ⟨hjob, by rw [State.busy, hjob]; rfl, ?registers⟩
  rw [ht] at hjob ⊢
  exact ⟨rfl, rfl, rfl, rfl, rfl, rfl, rfl, rfl, rfl, rfl, fun _ => rfl,
    fun hw => ⟨fun i hd => step_engine hjob hd hw, fun e hd => step_illegal hjob hw hd⟩⟩

/-! ### Which slots the checks of each command answer -/

theorem sourceOpt_ok {s : State} {f : SlotArg} {m : Option SlotNo} (h : s.sourceOpt f = .ok m) :
    argSlot .default f = m := by
  cases f with
  | null => cases h; rfl
  | slot n =>
    obtain ⟨a, ha, rfl⟩ : ∃ a, s.validSlot n = .ok a ∧ some a = m := by
      cases hv : s.validSlot n with
      | error e => simp [State.sourceOpt, hv, Except.map] at h
      | ok a => exact ⟨a, rfl, by simpa [State.sourceOpt, hv, Except.map] using h⟩
    obtain ⟨rfl, -⟩ := validSlot_ok ha
    exact slotRef_val a

/-- The target of FFT2 with destination field `d`, when source field `a` stands for `m` (43_frequency.md R203). -/
theorem or_eq_destArg {d a : SlotArg} {c m : Option SlotNo} (hd : destOpt .default d = .ok c)
    (ha : argSlot .default a = m) : c.or m = destArg .default d a := by
  cases d with
  | null => cases hd; exact ha.symm
  | slot n =>
    cases hn : slotRef .default n with
    | none => simp [destOpt, hn] at hd
    | some i =>
      obtain rfl : some i = c := by simpa [destOpt, hn] using hd
      exact hn.symm

/-- The targets of a same-format command, TRACE, ADAPTHRESH and THRESHMASK whose source is accepted (R116). -/
theorem target_of_dest {s : State} {sa sd : SlotArg} {a d : SlotNo} (ha : s.source sa = .ok a)
    (hd : dest a sd = .ok d) : Target sd sa d := by
  obtain ⟨rfl, -⟩ := source_ok ha
  exact dest_eq_ok.mp hd

theorem sameFormat_target {s : State} {sa sb : SlotArg} {params : Bool} {a d : SlotNo}
    (h : s.sameFormat sa sb params = .ok (a, d)) : Target sb sa d := by
  obtain ⟨rfl, hd, -⟩ := sameFormat_ok h
  exact dest_eq_ok.mp hd

/-- What FFT2's checks passing says of the slots of its plan. -/
theorem fftPlan_slots {s : State} {sa sb sc sd : SlotArg} {pow2 : Bool} {p : FftPlan .default}
    (h : s.fftPlan sa sb sc sd pow2 = .ok p) :
    argSlot .default sa = p.srcR ∧ argSlot .default sb = p.srcI ∧ p.tR = destArg .default sc sa ∧
      p.tI = destArg .default sd sb := by
  unfold State.fftPlan at h
  split at h
  · next ha hb hc hd =>
    split at h
    · cases h
    · obtain ⟨-, rfl⟩ := of_guards_ok h
      exact ⟨sourceOpt_ok ha, sourceOpt_ok hb, or_eq_destArg hc (sourceOpt_ok ha), or_eq_destArg hd (sourceOpt_ok hb)⟩
  · cases h

theorem optCheck_slots {s : State} {sa sb : SlotArg} {method : BitVec 3} {a : SlotNo} {m : Option SlotNo}
    (h : s.optCheck sa sb method = .ok (a, m)) : argSlot .default sa = some a ∧ argSlot .default sb = m := by
  unfold State.optCheck at h
  split at h
  · next ha hb =>
    split at h
    · cases h
    · split at h
      · cases h
      · split_ifs at h
        cases h
        exact ⟨argSlot_eq_some.mpr (source_ok ha).1, sourceOpt_ok hb⟩
  · cases h

theorem adaptCheck_slots {s : State} {sa sb sc : SlotArg} {method : BitVec 3} {balance : Word} {a d : SlotNo}
    {m : Option SlotNo} (h : s.adaptCheck sa sb sc method balance = .ok (a, m, d)) :
    argSlot .default sa = some a ∧ argSlot .default sb = m ∧ Target sc sa d := by
  unfold State.adaptCheck at h
  split at h
  · next ha hb =>
    split at h
    · cases h
    · next hd =>
      split at h
      · cases h
      · split_ifs at h
        cases h
        exact ⟨argSlot_eq_some.mpr (source_ok ha).1, sourceOpt_ok hb, target_of_dest ha hd⟩
  · cases h

theorem maskCheck_slots {s : State} {sa sb sc : SlotArg} {a m d : SlotNo}
    (h : s.maskCheck sa sb sc = .ok (a, m, d)) :
    argSlot .default sa = some a ∧ argSlot .default sb = some m ∧ Target sc sa d := by
  unfold State.maskCheck at h
  split at h
  · next ha hb =>
    split at h
    · cases h
    · next hd =>
      split_ifs at h
      cases h
      exact ⟨argSlot_eq_some.mpr (source_ok ha).1, argSlot_eq_some.mpr (source_ok hb).1, target_of_dest ha hd⟩
  · cases h

theorem traceCheck_slots {s : State} {sa sb : SlotArg} {a d : SlotNo} (h : s.traceCheck sa sb = .ok (a, d)) :
    argSlot .default sa = some a ∧ Target sb sa d := by
  unfold State.traceCheck at h
  split at h
  · cases h
  · next ha =>
    split at h
    · cases h
    · next hd =>
      cases h
      exact ⟨argSlot_eq_some.mpr (source_ok ha).1, target_of_dest ha hd⟩

theorem fillCheck_slots {s : State} {sa : SlotArg} {index : Byte} {a : SlotNo} (h : s.fillCheck sa index = .ok a) :
    argSlot .default sa = some a :=
  argSlot_eq_some.mpr (source_ok (fillCheck_ok h)).1

theorem RowPolled.mayWrite {sa sb : SlotArg} {i : Instr} {d : SlotNo} (hi : RowPolled sa sb i) (h : Target sb sa d) :
    MayWrite i d := by
  cases hi with
  | filter => exact .filter h
  | erode => exact .erode h
  | dilate => exact .dilate h
  | edge => exact .edge h
  | contour => exact .contour h
  | unsharp => exact .unsharp h
  | median => exact .median h

theorem ColumnPolled.mayWrite {sa sb : SlotArg} {i : Instr} {d : SlotNo} (hi : ColumnPolled sa sb i)
    (h : Target sb sa d) : MayWrite i d := by
  cases hi with
  | gaussblur => exact .gaussblur h
  | selblur => exact .selblur h

/-! ### What a body leaves of the other slots -/

theorem slot_withSlot_of_not {i : Instr} {d e : SlotNo} (he : MayWrite i e) (hd : ¬ MayWrite i d) (s : State)
    (v : Slot) : (s.withSlot e v).slot d = s.slot d :=
  State.slot_withSlot_other s (by rintro rfl; exact hd he) v

theorem slot_writeTarget_other {s : State} {t : Option SlotNo} {d : SlotNo} (h : t ≠ some d) (w k : Nat)
    (f : Nat → Nat → Nat) : (s.writeTarget t w k f).slot d = s.slot d := by
  cases t with
  | none => rfl
  | some e => exact State.slot_withSlot_other s (fun he => h (congrArg some he.symm)) _

theorem CommandBody.slot_finished {s : State} {i : Instr} {b : Body .default} (hb : CommandBody s i b) {d : SlotNo}
    (hd : ¬ MayWrite i d) (u : State) : (b.finished u).slot d = u.slot d := by
  cases hb with
  | rows out hi hc => exact slot_withSlot_of_not (hi.mayWrite (sameFormat_target hc)) hd u _
  | columns w which hi hc => exact slot_withSlot_of_not (hi.mayWrite (sameFormat_target hc)) hd u _
  | fft2 re im hc =>
    obtain ⟨-, -, hR, hI⟩ := fftPlan_slots hc
    have hne : ∀ {p : Option SlotNo} {f a}, p = destArg .default f a → (Target f a d → False) → p ≠ some d :=
      fun hp hn he => hn (destArg_eq_some.mp (hp ▸ he))
    exact (slot_writeTarget_other (hne hI fun h => hd (.fft2Imag h)) _ _ _).trans
      (slot_writeTarget_other (hne hR fun h => hd (.fft2Real h)) _ _ _)
  | optthresh r hc => rfl
  | adaptthresh r fails f hc =>
    exact slot_withSlot_of_not (.adaptthresh (adaptCheck_slots hc).2.2) hd { u with result := r } _
  | threshmask f hc => exact slot_withSlot_of_not (.threshmask (maskCheck_slots hc).2.2) hd u _
  | floodfill hc =>
    obtain ⟨rfl, -⟩ := source_ok (fillCheck_ok hc)
    exact slot_withSlot_of_not .floodfill hd u _
  | trace f hc => exact slot_withSlot_of_not (.trace (traceCheck_slots hc).2) hd u _

theorem CommandBody.slot_stopped {s : State} {i : Instr} {b : Body .default} (hb : CommandBody s i b) {d : SlotNo}
    (hd : ¬ MayWrite i d) (k : Nat) (u : State) : (b.stopped k u).slot d = u.slot d := by
  cases hb with
  | rows out hi hc => exact slot_withSlot_of_not (hi.mayWrite (sameFormat_target hc)) hd u _
  | columns w which hi hc => exact slot_withSlot_of_not (hi.mayWrite (sameFormat_target hc)) hd u _
  | _ => rfl

theorem CommandBody.slot_conclude {s : State} {i : Instr} {b : Body .default} (hb : CommandBody s i b) {d : SlotNo}
    (hd : ¬ MayWrite i d) (e : Ending) : (b.conclude s e).slot d = s.slot d := by
  cases e with
  | failed j => rfl
  | cancelled k => exact hb.slot_stopped hd k _
  | completed => exact hb.slot_finished hd s

theorem slots_reject (s : State) (i : Instr) (code : ErrCode) : (s.reject i code).slots = s.slots := by
  unfold State.reject
  split <;> rfl

/-- Settles O19: a rejection and a pause write no slot, and what a body publishes is in its destinations. -/
theorem onlyDestinationsChange : Obligations.OnlyDestinationsChange := by
  intro i s t h d hd
  rcases exec_outcomes i s with ⟨code, ho⟩ | ⟨b, hb, ho⟩ <;> cases ho.symm.trans h
  · exact State.slot_congr (slots_reject s i code) d
  · rcases runBody_cases b s with ⟨-, hr⟩ | ⟨q, -, -, hr⟩ <;> rw [hr]
    · exact hb.slot_conclude hd _
    · rfl

end Sys2Proof.Machine

end

section

/-! What a command reads: the slots it names, and FILTER its kernel (O20, O21). Two states that agree on these give it
the same body to run. -/

namespace Sys2Proof.Machine

/-! ### The kernel -/

theorem winPos_index_lt {k w h x y : Nat} {p : WinPos} (hp : p ∈ window k w h x y) : p.i < k * k := by
  simp only [window, List.mem_flatMap, List.mem_filterMap, List.mem_range] at hp
  obtain ⟨i, hi, j, hj, hp⟩ := hp
  split at hp
  · cases hp
    calc i + k * j < k + k * j := by omega
      _ = k * (j + 1) := by ring
      _ ≤ k * k := Nat.mul_le_mul_left k hj
  · cases hp

/-- FILTER of side K reads KRAM entries 0..K²−1 only (10_state.md R35, 41_convolution.md R151). -/
theorem filterLane_congr {c c' : Nat → Int} {k : Nat} (hc : ∀ n, n < k * k → c' n = c n) (factor bias : Int)
    (w h : Nat) (lane : Nat → Nat → Nat) (x y : Nat) :
    filterLane c' k factor bias w h lane x y = filterLane c k factor bias w h lane x y := by
  have hwin : ∀ p ∈ window k w h x y, c' p.i = c p.i := fun p hp => hc _ (winPos_index_lt hp)
  have hsum : weightedSum c' lane (window k w h x y) = weightedSum c lane (window k w h x y) :=
    List.foldl_ext _ _ _ fun s p hp => by rw [hwin p hp]
  have hsummed : summedWeight c' (window k w h x y) = summedWeight c (window k w h x y) :=
    List.foldl_ext _ _ _ fun s p hp => by rw [hwin p hp]
  have htotal : totalWeight c' k = totalWeight c k :=
    List.foldl_ext _ _ _ fun s n hn => by rw [hc n (List.mem_range.mp hn)]
  simp only [filterLane, hsum, hsummed, htotal]

/-! ### States that agree on what a command reads -/

/-- The states hold the same slot where field `f` names one. -/
def AgreeAt (s s' : State) (f : SlotArg) : Prop := ∀ j, argSlot .default f = some j → s'.slot j = s.slot j

/-- The states hold the same entries of the kernel that `i` reads: those of FILTER's K×K kernel. -/
def SameKernel (i : Instr) (s s' : State) : Prop :=
  ∀ sa sb k factor bias, i = .filter sa sb k factor bias → ∀ n, n < k.toNat * k.toNat → s'.coef n = s.coef n

theorem sameKernel_refl (i : Instr) (s : State) : SameKernel i s s := fun _ _ _ _ _ _ _ _ => rfl

/-- The states agree on everything that `i` computes from (40_common.md R114). -/
structure SameInputs (i : Instr) (s s' : State) : Prop where
  slots : ∀ f ∈ slotFields i, AgreeAt s s' f
  kernel : SameKernel i s s'

section

variable {s s' : State} {sa sb sc sd : SlotArg}

theorem source_congr (h : AgreeAt s s' sa) : s'.source sa = s.source sa := by
  cases sa with
  | null => rfl
  | slot n =>
    change s'.validSlot n = s.validSlot n
    unfold State.validSlot
    cases hn : slotRef .default n with
    | none => rfl
    | some j => simp only [h j hn]

theorem sourceOpt_congr (h : AgreeAt s s' sa) : s'.sourceOpt sa = s.sourceOpt sa := by
  cases sa with
  | null => rfl
  | slot n => exact congrArg (Except.map some) (source_congr h)

theorem map_slot_congr {m : Option SlotNo} (h : AgreeAt s s' sa) (hm : argSlot .default sa = m) :
    m.map s'.slot = m.map s.slot := by
  cases m with
  | none => rfl
  | some j => exact congrArg some (h j hm)

theorem slot_of_source {a : SlotNo} (h : AgreeAt s s' sa) (ha : s.source sa = .ok a) : s'.slot a = s.slot a :=
  h a (argSlot_eq_some.mpr (source_ok ha).1)

theorem requireMask_congr {m : Option SlotNo} (h : AgreeAt s s' sb) (hm : argSlot .default sb = m) (t : Slot) :
    s'.requireMask m t = s.requireMask m t := by
  cases m with
  | none => rfl
  | some j => simp only [State.requireMask, h j hm]

theorem maskAt_congr {m : Option SlotNo} (h : AgreeAt s s' sb) (hm : argSlot .default sb = m) :
    s'.maskAt m = s.maskAt m := by
  cases m with
  | none => rfl
  | some j => funext x y; simp only [State.maskAt, h j hm]

theorem sameFormat_congr (h : AgreeAt s s' sa) (params : Bool) :
    s'.sameFormat sa sb params = s.sameFormat sa sb params := by
  unfold State.sameFormat
  rw [source_congr h]
  cases ha : s.source sa with
  | error e => rfl
  | ok a => simp only [slot_of_source h ha]

theorem optCheck_congr (ha : AgreeAt s s' sa) (hb : AgreeAt s s' sb) (method : BitVec 3) :
    s'.optCheck sa sb method = s.optCheck sa sb method := by
  unfold State.optCheck
  rw [source_congr ha, sourceOpt_congr hb]
  cases hsa : s.source sa with
  | error e => rfl
  | ok a =>
    cases hsb : s.sourceOpt sb with
    | error e => rfl
    | ok m => simp only [slot_of_source ha hsa, requireMask_congr hb (sourceOpt_ok hsb)]

theorem adaptCheck_congr (ha : AgreeAt s s' sa) (hb : AgreeAt s s' sb) (method : BitVec 3) (balance : Word) :
    s'.adaptCheck sa sb sc method balance = s.adaptCheck sa sb sc method balance := by
  unfold State.adaptCheck
  rw [source_congr ha, sourceOpt_congr hb]
  cases hsa : s.source sa with
  | error e => rfl
  | ok a =>
    cases hsb : s.sourceOpt sb with
    | error e => rfl
    | ok m => simp only [slot_of_source ha hsa, requireMask_congr hb (sourceOpt_ok hsb)]

theorem maskCheck_congr (ha : AgreeAt s s' sa) (hb : AgreeAt s s' sb) :
    s'.maskCheck sa sb sc = s.maskCheck sa sb sc := by
  unfold State.maskCheck
  rw [source_congr ha, source_congr hb]
  cases hsa : s.source sa with
  | error e => rfl
  | ok a =>
    cases hsb : s.source sb with
    | error e => rfl
    | ok m => simp only [slot_of_source ha hsa, slot_of_source hb hsb]

theorem fillCheck_congr (ha : AgreeAt s s' sa) (index : Byte) : s'.fillCheck sa index = s.fillCheck sa index := by
  unfold State.fillCheck
  rw [source_congr ha]
  cases hsa : s.source sa with
  | error e => rfl
  | ok a => simp only [slot_of_source ha hsa]

theorem traceCheck_congr (ha : AgreeAt s s' sa) : s'.traceCheck sa sb = s.traceCheck sa sb := by
  unfold State.traceCheck
  rw [source_congr ha]

theorem fftPlan_congr (ha : AgreeAt s s' sa) (hb : AgreeAt s s' sb) (pow2 : Bool) :
    s'.fftPlan sa sb sc sd pow2 = s.fftPlan sa sb sc sd pow2 := by
  unfold State.fftPlan
  rw [sourceOpt_congr ha, sourceOpt_congr hb]
  split
  · next a b c d hsa hsb hc hd =>
    have hslotA : ∀ j, a = some j → s'.slot j = s.slot j := fun j hj => ha j ((sourceOpt_ok hsa).trans hj)
    have hslotB : ∀ j, b = some j → s'.slot j = s.slot j := fun j hj => hb j ((sourceOpt_ok hsb).trans hj)
    rcases a with _ | i <;> rcases b with _ | j
    · rfl
    · simp only [Option.none_or, hslotB j rfl]
    · simp only [Option.or_none, hslotA i rfl]
    · simp only [Option.some_or, hslotA i rfl, hslotB j rfl]
  · rfl

theorem planGrid_congr (ha : AgreeAt s s' sa) (hb : AgreeAt s s' sb) {p : FftPlan .default} {pow2 : Bool}
    (hp : s.fftPlan sa sb sc sd pow2 = .ok p) : s'.planGrid p pow2 = s.planGrid p pow2 := by
  obtain ⟨hR, hI, -, -⟩ := fftPlan_slots hp
  funext x y
  simp only [State.planGrid, map_slot_congr ha hR, map_slot_congr hb hI]

end

/-! ### The nine same-format commands as one -/

/-- A same-format command of `units t` units on the source `t`, of which the first `k` write `out t x y ch` at the
pixels `which t k x y` (40_common.md R117, R135). -/
def sameFormatCommand (v : State) (sa sb : SlotArg) (params : Bool) (units : Slot → Nat)
    (which : Slot → Nat → Nat → Nat → Bool) (out : Slot → Nat → Nat → Nat → Nat) : Host.Outcome State Fault Refusal :=
  match v.sameFormat sa sb params with
  | .error e => .next (v.fail e)
  | .ok (a, d) => .next (runBody (sameFormatBody a d (units (v.slot a)) (which (v.slot a)) (out (v.slot a))) v)

theorem sameFormatCommand_ok {v : State} {sa sb : SlotArg} {params : Bool} {a d : SlotNo}
    (h : v.sameFormat sa sb params = .ok (a, d)) (units : Slot → Nat) (which : Slot → Nat → Nat → Nat → Bool)
    (out : Slot → Nat → Nat → Nat → Nat) :
    sameFormatCommand v sa sb params units which out =
      .next (runBody (sameFormatBody a d (units (v.slot a)) (which (v.slot a)) (out (v.slot a))) v) := by
  simp only [sameFormatCommand, h]

theorem sameFormatCommand_error {v : State} {sa sb : SlotArg} {params : Bool} {e : ErrCode}
    (h : v.sameFormat sa sb params = .error e) (units : Slot → Nat) (which : Slot → Nat → Nat → Nat → Bool)
    (out : Slot → Nat → Nat → Nat → Nat) : sameFormatCommand v sa sb params units which out = .next (v.fail e) := by
  simp only [sameFormatCommand, h]

theorem rowCommand_eq (v : State) (sa sb : SlotArg) (params : Bool) (out : Slot → Nat → Nat → Nat → Nat) :
    rowCommand v sa sb params out = sameFormatCommand v sa sb params (fun t => t.scanBox.rows) Slot.rowScope out := by
  unfold rowCommand sameFormatCommand
  cases v.sameFormat sa sb params <;> rfl

theorem winSideOk_eq (k : Byte) : winSideOk .default k = decide (1 ≤ k.toNat ∧ k.toNat ≤ 255) :=
  (Bool.decide_and _ _).symm

theorem filterSideOk_eq (k : Byte) : filterSideOk .default k = decide (k.toNat % 2 = 1 ∧ k.toNat ≤ 15) :=
  (Bool.decide_and _ _).symm

/-- A row-polled command writes the scan box row by row, and what it computes depends on the source and the kernel. -/
theorem RowPolled.exec_eq {sa sb : SlotArg} {i : Instr} {params : Bool} (hi : RowPolled sa sb i)
    (hp : SameFormat sa sb i params) (s : State) : ∃ out : Slot → Nat → Nat → Nat → Nat, ∀ v, SameKernel i s v →
      exec i v = sameFormatCommand v sa sb params (fun t => t.scanBox.rows) Slot.rowScope out := by
  simp only [← rowCommand_eq]
  cases hi with
  | filter k factor bias =>
    cases hp
    refine ⟨fun t x y ch => filterLane (fun n => (s.coef n).toInt) k.toNat factor.toInt bias.toInt t.width t.height
      (fun u v => t.lane u v ch) x y, fun v hv => ?_⟩
    have hcoef : ∀ n, n < k.toNat * k.toNat → (v.coef n).toInt = (s.coef n).toInt :=
      fun n hn => congrArg BitVec.toInt (hv sa sb k factor bias rfl n hn)
    simp only [exec, execFilter, filterSideOk_eq, filterLane_congr hcoef]
  | erode k =>
    cases hp
    exact ⟨fun t x y ch => minLane t k.toNat x y ch, fun v _ => by simp only [exec, execErode, winSideOk_eq]⟩
  | dilate k =>
    cases hp
    exact ⟨fun t x y ch => maxLane t k.toNat x y ch, fun v _ => by simp only [exec, execDilate, winSideOk_eq]⟩
  | edge k =>
    cases hp
    exact ⟨fun t x y ch => edgeLane t k.toNat x y ch, fun v _ => by simp only [exec, execEdge, winSideOk_eq]⟩
  | median k =>
    cases hp
    exact ⟨fun t x y ch => medianLane t k.toNat x y ch, fun v _ => by simp only [exec, execMedian, winSideOk_eq]⟩
  | contour => cases hp; exact ⟨_, fun v _ => rfl⟩
  | unsharp radius amount threshold =>
    cases hp
    refine ⟨fun t x y ch => unsharp1 (F64.ofF32 amount) threshold.toInt (t.lane x y ch)
      (blurLane (gaussWeights .default (F64.ofF32 radius)) t x y ch), fun v _ => ?_⟩
    simp only [exec, execUnsharp, radiusOk]

/-- A column-polled command writes its pixels column by column. -/
theorem ColumnPolled.exec_eq {sa sb : SlotArg} {i : Instr} {params : Bool} (hi : ColumnPolled sa sb i)
    (hp : SameFormat sa sb i params) : ∃ (w : List F64) (which : Slot → Nat → Nat → Bool), ∀ v, exec i v =
      sameFormatCommand v sa sb params Slot.width (fun t k x y => decide (x < k) && which t x y) (blurLane w) := by
  cases hi with
  | gaussblur radius =>
    cases hp
    refine ⟨gaussWeights .default (F64.ofF32 radius), Slot.inscope, fun v => ?_⟩
    simp only [exec, execGaussblur, sameFormatCommand, radiusOk]
    cases v.sameFormat sa sb _ <;> rfl
  | selblur radius threshold =>
    cases hp
    refine ⟨gaussWeights .default (F64.ofF32 radius), fun t => qualifies .default t threshold.toNat, fun v => ?_⟩
    simp only [exec, execSelblur, sameFormatCommand, radiusOk]
    cases v.sameFormat sa sb _ <;> rfl

/-! ### Agreeing states give a command the same body -/

/-- In both states the same check of `i` fails, or the engine takes the turn of the same body. -/
def Alike (i : Instr) (s s' : State) : Prop :=
  (∃ code, exec i s = .next (s.reject i code) ∧ exec i s' = .next (s'.reject i code)) ∨
  (∃ b, CommandBody s i b ∧ exec i s = .next (runBody b s) ∧ exec i s' = .next (runBody b s'))

section

variable {s s' : State} {i : Instr} {sa sb : SlotArg} {params : Bool}

theorem SameFormat.reject_eq (hp : SameFormat sa sb i params) (v : State) (code : ErrCode) :
    v.reject i code = v.fail code := by
  cases hp <;> rfl

theorem sameFormatCommand_alike {units : Slot → Nat} {which : Slot → Nat → Nat → Nat → Bool}
    {out : Slot → Nat → Nat → Nat → Nat} (hp : SameFormat sa sb i params) (h : AgreeAt s s' sa)
    (hs : exec i s = sameFormatCommand s sa sb params units which out)
    (hs' : exec i s' = sameFormatCommand s' sa sb params units which out)
    (hb : ∀ a d, s.sameFormat sa sb params = .ok (a, d) →
      CommandBody s i (sameFormatBody a d (units (s.slot a)) (which (s.slot a)) (out (s.slot a)))) : Alike i s s' := by
  have hcheck := sameFormat_congr (sb := sb) h params
  cases hc : s.sameFormat sa sb params with
  | error e =>
    refine .inl ⟨e, ?_, ?_⟩
    · rw [hs, sameFormatCommand_error hc, hp.reject_eq]
    · rw [hs', sameFormatCommand_error (hcheck.trans hc), hp.reject_eq]
  | ok p =>
    obtain ⟨a, d⟩ := p
    have hslot : s'.slot a = s.slot a := h a (argSlot_eq_some.mpr (sameFormat_ok hc).1)
    refine .inr ⟨_, hb a d hc, ?_, ?_⟩
    · rw [hs, sameFormatCommand_ok hc]
    · rw [hs', sameFormatCommand_ok (hcheck.trans hc), hslot]

theorem RowPolled.source_mem (hi : RowPolled sa sb i) : sa ∈ slotFields i := by
  cases hi <;> exact List.mem_cons_self

theorem ColumnPolled.source_mem (hi : ColumnPolled sa sb i) : sa ∈ slotFields i := by
  cases hi <;> exact List.mem_cons_self

theorem RowPolled.alike (hi : RowPolled sa sb i) (hp : SameFormat sa sb i params) (h : SameInputs i s s') :
    Alike i s s' := by
  obtain ⟨out, hexec⟩ := hi.exec_eq hp s
  exact sameFormatCommand_alike hp (h.slots sa hi.source_mem) (hexec s (sameKernel_refl i s)) (hexec s' h.kernel)
    fun a d hc => .rows (out (s.slot a)) hi hc

theorem ColumnPolled.alike (hi : ColumnPolled sa sb i) (hp : SameFormat sa sb i params) (h : SameInputs i s s') :
    Alike i s s' := by
  obtain ⟨w, which, hexec⟩ := hi.exec_eq hp
  exact sameFormatCommand_alike hp (h.slots sa hi.source_mem) (hexec s) (hexec s')
    fun a d hc => .columns w (which (s.slot a)) hi hc

end

/-- What a command computes depends on the slots it names and, FILTER's, on its kernel (40_common.md R114). -/
theorem exec_alike {i : Instr} {s s' : State} (h : SameInputs i s s') : Alike i s s' := by
  have hslots := h.slots
  cases i with
  | filter sa sb k factor bias => exact RowPolled.alike (.filter k factor bias) (.filter k factor bias) h
  | erode sa sb k => exact RowPolled.alike (.erode k) (.erode k) h
  | dilate sa sb k => exact RowPolled.alike (.dilate k) (.dilate k) h
  | edge sa sb k => exact RowPolled.alike (.edge k) (.edge k) h
  | contour sa sb => exact RowPolled.alike .contour .contour h
  | unsharp sa sb radius amount threshold =>
    exact RowPolled.alike (.unsharp radius amount threshold) (.unsharp radius amount threshold) h
  | median sa sb k => exact RowPolled.alike (.median k) (.median k) h
  | gaussblur sa sb radius => exact ColumnPolled.alike (.gaussblur radius) (.gaussblur radius) h
  | selblur sa sb radius threshold =>
    exact ColumnPolled.alike (.selblur radius threshold) (.selblur radius threshold) h
  | fft2 sa sb sc sd inv pow2 mag =>
    have ha := hslots sa (by simp [slotFields])
    have hb := hslots sb (by simp [slotFields])
    simp only [Alike, exec, execFft2, fftPlan_congr ha hb]
    cases hc : s.fftPlan sa sb sc sd pow2 with
    | error e => exact .inl ⟨e, rfl, rfl⟩
    | ok p =>
      simp only [planGrid_congr ha hb hc]
      exact .inr ⟨_, .fft2 _ _ hc, rfl, rfl⟩
  | optthresh sa sb method box =>
    have ha := hslots sa (by simp [slotFields])
    have hb := hslots sb (by simp [slotFields])
    simp only [Alike, exec, execOptthresh, optCheck_congr ha hb]
    cases hc : s.optCheck sa sb method with
    | error e => exact .inl ⟨e, rfl, rfl⟩
    | ok p =>
      obtain ⟨a, m⟩ := p
      obtain ⟨hsa, hsb⟩ := optCheck_slots hc
      simp only [ha a hsa, maskAt_congr hb hsb]
      split
      · exact .inl ⟨.noThreshold, rfl, rfl⟩
      · exact .inr ⟨_, .optthresh _ hc, rfl, rfl⟩
  | adaptthresh sa sb sc method boxSize bias balance =>
    have ha := hslots sa (by simp [slotFields])
    have hb := hslots sb (by simp [slotFields])
    simp only [Alike, exec, execAdaptthresh, adaptCheck_congr ha hb]
    cases hc : s.adaptCheck sa sb sc method balance with
    | error e => exact .inl ⟨e, rfl, rfl⟩
    | ok p =>
      obtain ⟨a, m, d⟩ := p
      obtain ⟨hsa, hsb, -⟩ := adaptCheck_slots hc
      simp only [ha a hsa, maskAt_congr hb hsb]
      split
      · exact .inl ⟨.noThreshold, rfl, rfl⟩
      · exact .inr ⟨_, .adaptthresh _ _ _ hc, rfl, rfl⟩
  | threshmask sa sb sc =>
    have ha := hslots sa (by simp [slotFields])
    have hb := hslots sb (by simp [slotFields])
    simp only [Alike, exec, execThreshmask, maskCheck_congr ha hb]
    cases hc : s.maskCheck sa sb sc with
    | error e => exact .inl ⟨e, rfl, rfl⟩
    | ok p =>
      obtain ⟨a, m, d⟩ := p
      obtain ⟨hsa, hsb, -⟩ := maskCheck_slots hc
      simp only [ha a hsa, hb m hsb]
      exact .inr ⟨_, .threshmask (fun x y => decide ((s.slot m).lane x y 0 < (s.slot a).grayvAs (s.slot a).cls x y)) hc,
        rfl, rfl⟩
  | floodfill sa track x0 y0 color index tolerance opacity level =>
    simp only [Alike, exec, execFloodfill, fillCheck_congr (hslots sa (by simp [slotFields]))]
    cases hc : s.fillCheck sa index with
    | error e => exact .inl ⟨e, rfl, rfl⟩
    | ok a => exact .inr ⟨_, .floodfill hc, rfl, rfl⟩
  | trace sa sb target traceColor =>
    have ha := hslots sa (by simp [slotFields])
    simp only [Alike, exec, execTrace, traceCheck_congr ha]
    cases hc : s.traceCheck sa sb with
    | error e => exact .inl ⟨e, rfl, rfl⟩
    | ok p =>
      obtain ⟨a, d⟩ := p
      simp only [ha a (traceCheck_slots hc).1]
      exact .inr ⟨_, .trace _ hc, rfl, rfl⟩

/-! ### Memories that a command carries along -/

/-- The state with its slots and KRAM changed by functions of them. -/
def State.retouch (s : State) (f : Vector Slot Config.default.nslot → Vector Slot Config.default.nslot)
    (k : Mem (BitVec 16) → Mem (BitVec 16)) (g : Nat → Nat) : State :=
  { s with slots := f s.slots, kram := k s.kram, kramGen := g s.kramGen }

section

variable (f : Vector Slot Config.default.nslot → Vector Slot Config.default.nslot)
  (k : Mem (BitVec 16) → Mem (BitVec 16)) (g : Nat → Nat)

theorem reject_retouch (s : State) (i : Instr) (code : ErrCode) :
    (s.retouch f k g).reject i code = (s.reject i code).retouch f k g := by
  unfold State.reject
  split <;> rfl

/-- A change of the memories that each effect of a body carries along is carried along by its turn. -/
theorem runBody_retouch {b : Body .default} (hfin : ∀ u, b.finished (u.retouch f k g) = (b.finished u).retouch f k g)
    (hstop : ∀ n u, b.stopped n (u.retouch f k g) = (b.stopped n u).retouch f k g) (s : State) :
    runBody b (s.retouch f k g) = (runBody b s).retouch f k g := by
  have hconclude : ∀ e, b.conclude (s.retouch f k g) e = (b.conclude s e).retouch f k g := fun e => by
    cases e with
    | failed j => rfl
    | cancelled n =>
      exact congrArg (State.complete · .ok true)
        (hstop n { s with progress := s.progressAt b.units (Ending.position b.units (.cancelled n)) })
    | completed => exact congrArg (State.complete · .ok false) (hfin s)
  have hending : b.ending (s.retouch f k g) = b.ending s := rfl
  have hnext : (s.retouch f k g).nextStop = s.nextStop := rfl
  unfold runBody
  rw [hending, hconclude, hnext]
  cases s.nextStop with
  | none => rfl
  | some q =>
    dsimp only
    split <;> rfl

end

/-- A command computes alike in a state whose memories are changed, where it does not read the change and each of its
effects carries the change along. -/
theorem exec_retouch {i : Instr} {s : State} {f : Vector Slot Config.default.nslot → Vector Slot Config.default.nslot}
    {k : Mem (BitVec 16) → Mem (BitVec 16)} {g : Nat → Nat} (h : SameInputs i s (s.retouch f k g))
    (hfin : ∀ b, CommandBody s i b → ∀ u, b.finished (u.retouch f k g) = (b.finished u).retouch f k g)
    (hstop : ∀ b, CommandBody s i b → ∀ n u, b.stopped n (u.retouch f k g) = (b.stopped n u).retouch f k g) :
    ∃ t, exec i s = .next t ∧ exec i (s.retouch f k g) = .next (t.retouch f k g) := by
  rcases exec_alike h with ⟨code, hs, hs'⟩ | ⟨b, hb, hs, hs'⟩
  · exact ⟨_, hs, by rw [hs', reject_retouch]⟩
  · exact ⟨_, hs, by rw [hs', runBody_retouch f k g (hfin b hb) (hstop b hb)]⟩

/-! ### KRAM -/

theorem CommandBody.finished_kernel {s : State} {i : Instr} {b : Body .default} (hb : CommandBody s i b)
    (m : Mem (BitVec 16)) (g : Nat) (u : State) :
    b.finished (u.retouch id (fun _ => m) fun _ => g) = (b.finished u).retouch id (fun _ => m) fun _ => g := by
  have hwrite : ∀ (u : State) t w h f, (u.retouch id (fun _ => m) fun _ => g).writeTarget t w h f =
      (u.writeTarget t w h f).retouch id (fun _ => m) fun _ => g := fun u t w h f => by cases t <;> rfl
  cases hb with
  | fft2 re im hc => simp only [wholeBody, hwrite]
  | _ => rfl

theorem CommandBody.stopped_kernel {s : State} {i : Instr} {b : Body .default} (hb : CommandBody s i b)
    (m : Mem (BitVec 16)) (g n : Nat) (u : State) :
    b.stopped n (u.retouch id (fun _ => m) fun _ => g) = (b.stopped n u).retouch id (fun _ => m) fun _ => g := by
  cases hb <;> rfl

/-- Settles O21: the kernel is read by FILTER alone, and no effect of a body touches it. -/
theorem onlyFilterReadsTheKernel : Obligations.OnlyFilterReadsTheKernel := by
  intro i s m g hk
  have hinputs : SameInputs i s (s.retouch id (fun _ => m) fun _ => g) := ⟨fun _ _ _ _ => rfl, hk⟩
  obtain ⟨t, hs, hs'⟩ := exec_retouch hinputs (fun b hb => hb.finished_kernel m g) fun b hb => hb.stopped_kernel m g
  exact ⟨t, hs, hs'⟩

/-! ### Slots that a command does not name -/

theorem withSlot_eq_retouch (s : State) (j : SlotNo) (v : Slot) :
    s.withSlot j v = s.retouch (fun slots => slots.set j v) id id := rfl

theorem withSlot_comm {d j : SlotNo} (h : d ≠ j) (s : State) (t v : Slot) :
    (s.withSlot j v).withSlot d t = (s.withSlot d t).withSlot j v := by
  have hne : (j : Nat) ≠ d := fun e => h (Fin.ext e.symm)
  simp only [State.withSlot, Vector.set_comm _ _ hne]

theorem target_mem {l : List SlotArg} {f a : SlotArg} {d : SlotNo} (h : Target f a d) (hf : f ∈ l) (ha : a ∈ l) :
    .slot d.val ∈ l := by
  rcases h with rfl | ⟨-, rfl⟩
  · exact hf
  · exact ha

/-- A command names the slots it may write. -/
theorem MayWrite.mem_slotFields {i : Instr} {d : SlotNo} (h : MayWrite i d) : .slot d.val ∈ slotFields i := by
  cases h
  case floodfill => exact List.mem_cons_self
  all_goals
    next h => exact target_mem h (by simp [slotFields]) (by simp [slotFields])

section

variable {s : State} {i : Instr} {b : Body .default} {j : SlotNo} {v : Slot}

/-- A write of slot `d` that depends on `d` alone does not see slot `j`. -/
theorem update_withSlot {d : SlotNo} (h : d ≠ j) (f : Slot → Slot) (u : State) :
    (u.withSlot j v).withSlot d (f ((u.withSlot j v).slot d)) = (u.withSlot d (f (u.slot d))).withSlot j v := by
  rw [State.slot_withSlot_other u h, withSlot_comm h]

theorem writeTarget_withSlot {t : Option SlotNo} (h : t ≠ some j) (w k : Nat) (f : Nat → Nat → Nat) (u : State) :
    (u.withSlot j v).writeTarget t w k f = (u.writeTarget t w k f).withSlot j v := by
  cases t with
  | none => rfl
  | some d => exact update_withSlot (fun hd => h (congrArg some hd)) (fun t => freshGray8 t w k f) u

theorem sameFormat_withSlot {a d : SlotNo} (ha : a ≠ j) (hd : d ≠ j) (which : Nat → Nat → Bool)
    (out : Nat → Nat → Nat → Nat) (u : State) :
    (u.withSlot j v).withSlot d (((u.withSlot j v).prepared a d).paint which out) =
      (u.withSlot d ((u.prepared a d).paint which out)).withSlot j v := by
  simp only [State.prepared, State.slot_withSlot_other u ha, State.slot_withSlot_other u hd, withSlot_comm hd]

end

/-- The command names slot `j` in none of its fields. -/
def Unnamed (i : Instr) (j : SlotNo) : Prop := ∀ f ∈ slotFields i, f ≠ .slot j.val

section

variable {s : State} {i : Instr} {b : Body .default} {j : SlotNo} {v : Slot}

theorem Unnamed.ne_of_mayWrite (hj : Unnamed i j) {d : SlotNo} (hd : MayWrite i d) : d ≠ j := by
  rintro rfl
  exact hj _ hd.mem_slotFields rfl

theorem Unnamed.ne_of_argSlot (hj : Unnamed i j) {f : SlotArg} {a : SlotNo} (hf : f ∈ slotFields i)
    (ha : argSlot .default f = some a) : a ≠ j := by
  rintro rfl
  exact hj f hf (argSlot_eq_some.mp ha)

theorem CommandBody.finished_withSlot (hb : CommandBody s i b) (hj : Unnamed i j) (u : State) :
    b.finished (u.withSlot j v) = (b.finished u).withSlot j v := by
  cases hb with
  | rows out hi hc =>
    exact sameFormat_withSlot (hj.ne_of_argSlot hi.source_mem (argSlot_eq_some.mpr (sameFormat_ok hc).1))
      (hj.ne_of_mayWrite (hi.mayWrite (sameFormat_target hc))) _ _ u
  | columns w which hi hc =>
    exact sameFormat_withSlot (hj.ne_of_argSlot hi.source_mem (argSlot_eq_some.mpr (sameFormat_ok hc).1))
      (hj.ne_of_mayWrite (hi.mayWrite (sameFormat_target hc))) _ _ u
  | @fft2 sa sb sc sd inv pow2 mag p re im hc =>
    obtain ⟨-, -, hR, hI⟩ := fftPlan_slots hc
    have hre : p.tR ≠ some j := fun h => hj.ne_of_mayWrite (.fft2Real (destArg_eq_some.mp (hR ▸ h))) rfl
    have him : p.tI ≠ some j := fun h => hj.ne_of_mayWrite (.fft2Imag (destArg_eq_some.mp (hI ▸ h))) rfl
    simp only [wholeBody, writeTarget_withSlot hre, writeTarget_withSlot him]
  | optthresh r hc => rfl
  | adaptthresh r fails f hc =>
    exact update_withSlot (hj.ne_of_mayWrite (.adaptthresh (adaptCheck_slots hc).2.2))
      (fun t => freshBw t _ _ f) { u with result := r }
  | threshmask f hc =>
    exact update_withSlot (hj.ne_of_mayWrite (.threshmask (maskCheck_slots hc).2.2))
      (fun t => freshBw t _ _ f) u
  | floodfill hc =>
    exact update_withSlot (hj.ne_of_argSlot List.mem_cons_self (fillCheck_slots hc))
      (fun t => fillSlot t _ _ _ _ _ _ _ _) u
  | trace f hc =>
    exact update_withSlot (hj.ne_of_mayWrite (.trace (traceCheck_slots hc).2))
      (fun t => freshRgb24 .default t _ _ f) u

theorem CommandBody.stopped_withSlot (hb : CommandBody s i b) (hj : Unnamed i j) (k : Nat) (u : State) :
    b.stopped k (u.withSlot j v) = (b.stopped k u).withSlot j v := by
  cases hb with
  | rows out hi hc =>
    exact sameFormat_withSlot (hj.ne_of_argSlot hi.source_mem (argSlot_eq_some.mpr (sameFormat_ok hc).1))
      (hj.ne_of_mayWrite (hi.mayWrite (sameFormat_target hc))) _ _ u
  | columns w which hi hc =>
    exact sameFormat_withSlot (hj.ne_of_argSlot hi.source_mem (argSlot_eq_some.mpr (sameFormat_ok hc).1))
      (hj.ne_of_mayWrite (hi.mayWrite (sameFormat_target hc))) _ _ u
  | _ => rfl

theorem sameInputs_withSlot (hj : Unnamed i j) (s : State) (v : Slot) : SameInputs i s (s.withSlot j v) :=
  ⟨fun _ hf _ ha => State.slot_withSlot_other s (hj.ne_of_argSlot hf ha) v, sameKernel_refl i s⟩

end

/-- Settles O20: an unnamed slot is no input of the command, and each of its effects carries the slot along. -/
theorem unnamedSlotsDoNotMatter : Obligations.UnnamedSlotsDoNotMatter := by
  intro i s j v hj
  simp only [withSlot_eq_retouch]
  exact exec_retouch (sameInputs_withSlot hj s v) (fun b hb => hb.finished_withSlot hj)
    fun b hb => hb.stopped_withSlot hj

end Sys2Proof.Machine

end

section

/-! A same-format command that a poll stops (O37, O38): the image it leaves, against the whole command's. -/

namespace Sys2Proof.Machine

/-! ### The bytes of an image -/

section

variable {t : Slot} {x y ch : Nat}

theorem offsetOf_div (hch : ch < t.lanes) : t.offsetOf x y ch / t.bpb = y * t.width + x := by
  have hlt : ch < t.bpb := hch
  rw [Slot.offsetOf, Nat.mul_comm, Nat.mul_add_div (Nat.zero_lt_of_lt hlt), Nat.div_eq_of_lt hlt, Nat.add_zero]

theorem offsetOf_mod (hch : ch < t.lanes) : t.offsetOf x y ch % t.bpb = ch := by
  rw [Slot.offsetOf, Nat.mul_comm, Nat.mul_add_mod, Nat.mod_eq_of_lt (show ch < t.bpb from hch)]

theorem offsetOf_lt_extent (hx : x < t.width) (hy : y < t.height) (hch : ch < t.lanes) :
    t.offsetOf x y ch < t.extent := by
  have hpixel : y * t.width + x < t.area := by
    calc y * t.width + x < (y + 1) * t.width := by rw [Nat.succ_mul]; omega
      _ ≤ t.height * t.width := Nat.mul_le_mul_right _ hy
      _ = t.area := Nat.mul_comm _ _
  calc t.offsetOf x y ch < (y * t.width + x + 1) * t.bpb := by
        rw [Nat.succ_mul, Slot.offsetOf]; exact Nat.add_lt_add_left hch _
    _ ≤ t.extent := Nat.mul_le_mul_right _ hpixel

/-- A lane of a painted image. -/
theorem pixByte_paint_offsetOf (p : Nat → Nat → Bool) (out : Nat → Nat → Nat → Nat) (hx : x < t.width)
    (hy : y < t.height) (hch : ch < t.lanes) :
    (t.paint p out).pixByte (t.offsetOf x y ch) =
      if p x y = true then BitVec.ofNat 8 (out x y ch) else t.pixByte (t.offsetOf x y ch) := by
  have hcol : (y * t.width + x) % t.width = x := by rw [Nat.mul_comm, Nat.mul_add_mod, Nat.mod_eq_of_lt hx]
  have hrow : (y * t.width + x) / t.width = y := by
    rw [Nat.mul_comm, Nat.mul_add_div (Nat.zero_lt_of_lt hx), Nat.div_eq_of_lt hx, Nat.add_zero]
  simp only [Slot.pixByte_paint, offsetOf_div hch, offsetOf_mod hch, hcol, hrow, offsetOf_lt_extent hx hy hch, true_and]

end

/-! ### Images of a source -/

section

variable {src old new : Slot}

theorem SameDescriptor.width_eq (h : SameDescriptor src new) : new.width = src.width := congrArg BitVec.toNat h.w

theorem SameDescriptor.height_eq (h : SameDescriptor src new) : new.height = src.height := congrArg BitVec.toNat h.h

theorem SameDescriptor.lanes_eq (h : SameDescriptor src new) : new.lanes = src.lanes := by
  simp only [Slot.lanes, Slot.bpb, h.depth]

theorem SameDescriptor.offsetOf_eq (h : SameDescriptor src new) (x y ch : Nat) :
    new.offsetOf x y ch = src.offsetOf x y ch := by
  simp only [Slot.offsetOf, h.width_eq, Slot.bpb, h.depth]

theorem SameDescriptor.extent_eq (h : SameDescriptor src new) : new.extent = src.extent := by
  simp only [Slot.extent, Slot.area, h.width_eq, h.height_eq, Slot.bpb, h.depth]

/-- An image of the source in which nothing has been written yet. -/
abbrev CopyOf (src old new : Slot) : Prop := ResultImage src old new (fun _ _ => False) fun _ _ _ _ => True

theorem copyOf_self (t : Slot) : CopyOf t t t where
  descriptor := ⟨rfl, rfl, rfl, rfl, rfl, rfl, rfl, rfl, rfl, rfl⟩
  palette _ _ := rfl
  written _ _ _ _ _ _ h := h.elim
  kept _ _ _ _ _ _ _ := rfl
  beyond _ _ := rfl
  alphaPlane _ := (ite_self _).symm
  selPlane _ := (ite_self _).symm

theorem copyOf_copyImage (t d : Slot) : CopyOf t d (copyImage t d) where
  descriptor := ⟨rfl, rfl, rfl, rfl, rfl, rfl, rfl, rfl, rfl, rfl⟩
  palette i hi := by rw [palEntry_copyImage, if_pos hi]
  written _ _ _ _ _ _ h := h.elim
  kept x y ch hx hy hch _ := by rw [pixByte_copyImage, if_pos (offsetOf_lt_extent hx hy hch)]
  beyond o ho := by rw [pixByte_copyImage, if_neg (Nat.not_lt.mpr ho)]
  alphaPlane o := by simp only [alpByte_copyImage, and_assoc]
  selPlane o := selByte_copyImage t d o

/-- The prepared destination of a same-format command holds the source's image (40_common.md R117). -/
theorem copyOf_prepared (s : State) (a d : SlotNo) : CopyOf (s.slot a) (s.slot d) (s.prepared a d) := by
  unfold State.prepared
  split
  · next h => rw [h]; exact copyOf_self _
  · exact copyOf_copyImage _ _

theorem CopyOf.pixByte_paint (h : CopyOf src old new) (p : Nat → Nat → Bool) (out : Nat → Nat → Nat → Nat)
    {x y ch : Nat} (hx : x < src.width) (hy : y < src.height) (hch : ch < src.lanes) :
    (new.paint p out).pixByte (src.offsetOf x y ch) =
      if p x y = true then BitVec.ofNat 8 (out x y ch) else src.pixByte (src.offsetOf x y ch) := by
  have hd := h.descriptor
  rw [← h.kept x y ch hx hy hch not_false, ← hd.offsetOf_eq]
  exact pixByte_paint_offsetOf p out (hd.width_eq ▸ hx) (hd.height_eq ▸ hy) (hd.lanes_eq ▸ hch)

/-- A copy painted at pixels of `wr` only is an image of the source with those pixels written. -/
theorem CopyOf.paint (h : CopyOf src old new) {p : Nat → Nat → Bool} {out : Nat → Nat → Nat → Nat}
    {wr : Nat → Nat → Prop} {post : Nat → Nat → Nat → Byte → Prop}
    (hwritten : ∀ x y ch, x < src.width → y < src.height → ch < src.lanes → wr x y →
      post x y ch ((new.paint p out).pixByte (src.offsetOf x y ch)))
    (hkept : ∀ x y, x < src.width → y < src.height → ¬ wr x y → p x y = false) :
    ResultImage src old (new.paint p out) wr post where
  descriptor := ⟨h.descriptor.w, h.descriptor.h, h.descriptor.depth, h.descriptor.alpha, h.descriptor.selv,
    h.descriptor.paln, h.descriptor.bx0, h.descriptor.by0, h.descriptor.bx1, h.descriptor.by1⟩
  palette := h.palette
  written := hwritten
  kept x y ch hx hy hch hwr := by
    rw [h.pixByte_paint p out hx hy hch, hkept x y hx hy hwr, if_neg Bool.false_ne_true]
  beyond o ho := by
    rw [Slot.pixByte_paint, if_neg fun hlt => Nat.not_lt.mpr ho (h.descriptor.extent_eq ▸ hlt.1)]
    exact h.beyond o ho
  alphaPlane := h.alphaPlane
  selPlane := h.selPlane

/-- Of two paintings of a copy, the one that stops earlier agrees with the other where neither has stopped. -/
theorem CopyOf.paint_congr (h : CopyOf src old new) {p q : Nat → Nat → Bool} (out : Nat → Nat → Nat → Nat)
    {wr : Nat → Nat → Prop} (hagree : ∀ x y, x < src.width → y < src.height → wr x y → p x y = q x y)
    (hkept : ∀ x y, x < src.width → y < src.height → ¬ wr x y → p x y = false) :
    ResultImage src old (new.paint p out) wr
      fun x y ch v => v = (new.paint q out).pixByte (src.offsetOf x y ch) :=
  h.paint (fun x y ch hx hy hch hwr => by
    rw [h.pixByte_paint p out hx hy hch, h.pixByte_paint q out hx hy hch, hagree x y hx hy hwr]) hkept

end

/-! ### A body that a poll stops -/

/-- PROGRESS of the poll that stops a command (40_common.md R133, R134). -/
theorem progressAt_of_stopsAt {s : State} {n k : Nat} (h : s.stopsAt n k) :
    s.progressAt n (3 * k + 2) = s.polledProgress n k := by
  have hpoll : (3 * k + 2 - 1) / 3 = k := by omega
  unfold State.progressAt State.polledProgress State.position
  obtain ⟨-, h⟩ := h
  simp only [hpoll]
  cases hp : s.phase <;> rw [hp] at h <;> simp only [Phase.steps]
  case stopping => exact if_neg (by omega)
  case passed => obtain ⟨-, rfl⟩ := h; exact if_pos (by omega)
  case reported => obtain ⟨-, rfl⟩ := h; exact if_neg (by omega)
  case toPoll => obtain ⟨-, rfl⟩ := h; exact if_pos (by omega)

/-- The turn of a body without failing units that poll `k` stops. -/
theorem runBody_stopsAt {b : Body .default} {s : State} {k : Nat} (hf : ∀ j, b.fails j = false)
    (hk : s.stopsAt b.units k) (hq : s.quiet b.units) :
    runBody b s = (b.stopped k { s with progress := s.polledProgress b.units k }).complete .ok true := by
  have hend : s.endUnit b.units = k := (stopsAt_iff_endUnit hk.1).mp hk
  rw [runBody_cancels (by rw [hend]; exact hk.1) hq fun j _ _ => hf j, hend, progressAt_of_stopsAt hk]

/-- The state from which nothing disturbs the command, which is not under way yet: CANCEL is 0, and the host does
nothing. -/
def State.undisturbed (s : State) : State := { s with cancel := false, host := [], job := none }

theorem runBody_undisturbed {b : Body .default} (hf : ∀ j, b.fails j = false) (s : State) :
    runBody b s.undisturbed = (b.finished s.undisturbed).complete .ok false := by
  have hend : s.undisturbed.endUnit b.units = b.units := if_neg (by rintro (h | h) <;> cases h)
  exact runBody_completes hend nofun fun j _ _ => hf j

/-- A cancelled same-format command, against the whole command from the same slots. -/
theorem sameFormatCommand_cancelled {s t u : State} {a d : SlotNo} {sb : SlotArg} {params : Bool} {k : Nat}
    {units : Slot → Nat} {which : Slot → Nat → Nat → Nat → Bool} {out : Slot → Nat → Nat → Nat → Nat}
    {wr : Nat → Nat → Prop} (hc : s.sameFormat (.slot a) sb params = .ok (a, d))
    (hk : s.stopsAt (units (s.slot a)) k) (hq : s.quiet (units (s.slot a)))
    (ht : sameFormatCommand s (.slot a) sb params units which out = .next t)
    (hu : sameFormatCommand s.undisturbed (.slot a) sb params units which out = .next u)
    (hagree : ∀ x y, x < (s.slot a).width → y < (s.slot a).height → wr x y →
      which (s.slot a) k x y = which (s.slot a) (units (s.slot a)) x y)
    (hkept : ∀ x y, x < (s.slot a).width → y < (s.slot a).height → ¬ wr x y → which (s.slot a) k x y = false) :
    Completed s t .ok true (s.polledProgress (units (s.slot a)) k) ∧ t.result = s.result ∧ OthersKept s t [d] ∧
      ResultImage (s.slot a) (s.slot d) (t.slot d) wr
        fun x y ch v => v = (u.slot d).pixByte ((s.slot a).offsetOf x y ch) := by
  let b := sameFormatBody a d (units (s.slot a)) (which (s.slot a)) (out (s.slot a))
  have hpainted : ∀ (v : State) (new : Slot) code c, ((v.withSlot d new).complete code c).slot d = new :=
    fun v new _ _ => State.slot_withSlot_same v d new
  obtain rfl : (b.stopped k { s with progress := s.polledProgress b.units k }).complete .ok true = t := by
    rw [sameFormatCommand_ok hc, runBody_stopsAt (b := b) (fun _ => rfl) hk hq] at ht
    exact Host.Outcome.next.inj ht
  obtain rfl : (b.finished s.undisturbed).complete .ok false = u := by
    have hc' : s.undisturbed.sameFormat (.slot a) sb params = .ok (a, d) := hc
    rw [sameFormatCommand_ok hc'] at hu
    exact (runBody_undisturbed (b := b) (fun _ => rfl) s).symm.trans (Host.Outcome.next.inj hu)
  refine ⟨⟨⟨rfl, rfl, rfl, rfl, fun _ => rfl, rfl, rfl, rfl⟩, rfl, rfl, rfl, rfl, rfl⟩, rfl, ?others, ?image⟩
  case others =>
    intro j hj
    exact State.slot_withSlot_other { s with progress := s.polledProgress b.units k }
      (fun h => hj (List.mem_singleton.mpr h)) _
  case image =>
    simp only [b, sameFormatBody, hpainted]
    exact (copyOf_prepared s a d).paint_congr (out (s.slot a)) hagree hkept

/-! ### The two kinds of units -/

theorem inscope_scanBox {t : Slot} {x y : Nat} (hx : x < t.width) (hy : y < t.height) (h : t.inscope x y = true) :
    t.scanBox.x0 ≤ x ∧ x < t.scanBox.x1 ∧ t.scanBox.y0 ≤ y ∧ y < t.scanBox.y1 := by
  unfold Slot.scanBox
  unfold Slot.inscope at h
  cases hs : t.selv with
  | false => simpa using ⟨hx, hy⟩
  | true =>
    simp only [hs, Bool.not_true, Bool.false_or, Bool.and_eq_true, decide_eq_true_eq] at h
    simp only [if_true]
    omega

/-- The first `k` rows of the scan box hold the in-scope pixels above its `k`-th row (40_common.md R121, R122, R135). -/
theorem rowScope_iff {t : Slot} {k x y : Nat} (hx : x < t.width) (hy : y < t.height) :
    t.rowScope k x y = true ↔ t.inscope x y = true ∧ y < t.scanBox.y0 + k := by
  simp only [Slot.rowScope, PixBox.inRows, Bool.and_eq_true, decide_eq_true_eq]
  constructor
  · rintro ⟨⟨⟨-, hk⟩, -⟩, h⟩
    exact ⟨h, hk⟩
  · rintro ⟨h, hk⟩
    obtain ⟨h0, h1, h2, h3⟩ := inscope_scanBox hx hy h
    exact ⟨⟨⟨⟨⟨h0, h1⟩, h2⟩, hk⟩, h3⟩, h⟩

theorem rowScope_rows {t : Slot} {x y : Nat} (hx : x < t.width) (hy : y < t.height) :
    t.rowScope t.scanBox.rows x y = t.inscope x y := by
  rw [Bool.eq_iff_iff, rowScope_iff hx hy, and_iff_left_iff_imp]
  intro h
  obtain ⟨h0, h1, h2, h3⟩ := inscope_scanBox hx hy h
  rw [PixBox.rows, if_pos (by omega)]
  omega

/-- Settles O37: the units are the rows of the scan box. -/
theorem cancelledRowsAreAPrefix : Obligations.CancelledRowsAreAPrefix := by
  intro s t u i a d sb params k hi hp hparams hd hv hl hk hq ht hu
  obtain ⟨out, hexec⟩ := hi.exec_eq hp s
  refine sameFormatCommand_cancelled (sameFormat_of hd hv hl hparams) hk hq
    ((hexec s (sameKernel_refl i s)).symm.trans ht) ((hexec s.undisturbed (sameKernel_refl i s)).symm.trans hu)
    ?agree ?kept
  case agree =>
    rintro x y hx hy ⟨hscope, hrow⟩
    rw [rowScope_rows hx hy, hscope]
    exact (rowScope_iff hx hy).mpr ⟨hscope, hrow⟩
  case kept =>
    intro x y hx hy hwr
    rw [← rowScope_iff hx hy] at hwr
    exact Bool.eq_false_iff.mpr hwr

/-- Settles O38: the units are the columns of the image. -/
theorem cancelledColumnsAreAPrefix : Obligations.CancelledColumnsAreAPrefix := by
  intro s t u i a d sb params k hi hp hparams hd hv hl hk hq ht hu
  obtain ⟨w, which, hexec⟩ := hi.exec_eq hp
  refine sameFormatCommand_cancelled (sameFormat_of hd hv hl hparams) hk hq ((hexec s).symm.trans ht)
    ((hexec s.undisturbed).symm.trans hu) ?agree ?kept
  case agree =>
    intro x y hx _ hcol
    simp only [hx, hcol]
  case kept =>
    intro x y _ _ hcol
    simp only [hcol, decide_false, Bool.false_and]

end Sys2Proof.Machine

end

section

/-! A same-format command that completes (40_common.md R117, R118, R121): the image it leaves. -/

namespace Sys2Proof.Machine

-- As in Tests/Slice0: every thread that elaborates beside this one reserves a stack of its own.
set_option Elab.async false

/-- A command whose polls all pass runs all of its units (40_common.md R133). -/
theorem endUnit_of_pollsPass {s : State} {n : Nat} (h : s.pollsPass n) : s.endUnit n = n := by
  unfold State.endUnit
  split_ifs with hstop hpassed
  · rcases h with h | ⟨hns, hc | ⟨-, h⟩⟩
    · omega
    · simp [hns, hc] at hstop
    · omega
  · rcases h with h | ⟨hns, hc | ⟨hp, -⟩⟩
    · omega
    · simp [hns, hc] at hstop
    · exact absurd hp hpassed
  · rfl

/-- A same-format command that nothing stops: where its units write `out` exactly at the pixels `wr`, its destination
holds the source's image with `out` at these. -/
theorem sameFormatCommand_done {s : State} {a d : SlotNo} {sb : SlotArg} {params : Bool} {units : Slot → Nat}
    {which : Slot → Nat → Nat → Nat → Bool} {out : Slot → Nat → Nat → Nat → Nat} {wr : Nat → Nat → Prop}
    {post : Nat → Nat → Nat → Byte → Prop} (hc : s.sameFormat (.slot a) sb params = .ok (a, d))
    (hp : s.pollsPass (units (s.slot a))) (hq : s.quiet (units (s.slot a)))
    (hwhich : ∀ x y, x < (s.slot a).width → y < (s.slot a).height →
      (which (s.slot a) (units (s.slot a)) x y = true ↔ wr x y))
    (hpost : ∀ x y ch, x < (s.slot a).width → y < (s.slot a).height → ch < (s.slot a).lanes → wr x y →
      post x y ch (BitVec.ofNat 8 (out (s.slot a) x y ch))) :
    ∃ t, sameFormatCommand s (.slot a) sb params units which out = .next t ∧ SameFormatDone s t a d wr post := by
  let b := sameFormatBody a d (units (s.slot a)) (which (s.slot a)) (out (s.slot a))
  have hrun : runBody b s = (b.finished s).complete .ok false :=
    runBody_completes (endUnit_of_pollsPass hp) hq fun _ _ _ => rfl
  refine ⟨_, (sameFormatCommand_ok hc ..).trans (congrArg Host.Outcome.next hrun), ?outcome, rfl, ?others, ?image⟩
  case outcome => exact ⟨⟨rfl, rfl, rfl, rfl, fun _ => rfl, rfl, rfl, rfl⟩, rfl, rfl, rfl, rfl, rfl⟩
  case others => exact fun j hj => State.slot_withSlot_other s (fun h => hj (List.mem_singleton.mpr h)) _
  case image =>
    have hcopy := copyOf_prepared s a d
    have hslot : ((b.finished s).complete .ok false).slot d =
        (s.prepared a d).paint (which (s.slot a) (units (s.slot a))) (out (s.slot a)) :=
      State.slot_withSlot_same s d _
    rw [hslot]
    refine hcopy.paint (fun x y ch hx hy hch hwr => ?_) fun x y hx hy hwr => ?_
    · rw [hcopy.pixByte_paint _ _ hx hy hch, if_pos ((hwhich x y hx hy).mpr hwr)]
      exact hpost x y ch hx hy hch hwr
    · exact Bool.eq_false_iff.mpr (mt (hwhich x y hx hy).mp hwr)

section

variable {s : State} {a d : SlotNo} {sb : SlotArg} {params : Bool} {out : Slot → Nat → Nat → Nat → Nat}
  {post : Nat → Nat → Nat → Byte → Prop}

/-- A row command that nothing stops writes `out` at the in-scope pixels (40_common.md R121, R135). -/
theorem rowCommand_done (hd : dest a sb = .ok d) (hv : (s.slot a).valid .default = true)
    (hl : (s.slot a).laned = true) (hparams : params = true) (hp : s.pollsPass (s.slot a).scanBox.rows)
    (hq : s.quiet (s.slot a).scanBox.rows)
    (hpost : ∀ x y ch, x < (s.slot a).width → y < (s.slot a).height → ch < (s.slot a).lanes →
      post x y ch (BitVec.ofNat 8 (out (s.slot a) x y ch))) :
    ∃ t, rowCommand s (.slot a) sb params out = .next t ∧
      SameFormatDone s t a d (fun x y => (s.slot a).inscope x y = true) post := by
  rw [rowCommand_eq]
  exact sameFormatCommand_done (sameFormat_of hd hv hl hparams) hp hq
    (fun x y hx hy => by rw [rowScope_rows hx hy]) fun x y ch hx hy hch _ => hpost x y ch hx hy hch

end

/-- A byte written with a value that is one holds it. -/
theorem toNat_ofNat_byte {v : Nat} (h : v ≤ 255) : (BitVec.ofNat 8 v).toNat = v :=
  BitVec.toNat_ofNat v 8 ▸ Nat.mod_eq_of_lt (Nat.lt_succ_of_le h)

theorem lane_le (t : Slot) (x y ch : Nat) : t.lane x y ch ≤ 255 := by
  have hbyte := (t.pixByte ((y * t.width + x) * t.bpb + ch)).isLt
  unfold Slot.lane
  dsimp only
  split <;> omega

end Sys2Proof.Machine

end

section

/-! Windows (41_convolution.md R150): the list that a window command walks, and the pixels that Safety says it holds. -/

namespace Sys2Proof.Machine

set_option Elab.async false

/-! ### The positions of a window -/

/-- The coordinate at offset `i − K div 2` is the one that `i` is the offset of. -/
theorem winCoord_eq_some {k n x i u : Nat} : winCoord k n x i = some u ↔ u < n ∧ u + k / 2 = x + i := by
  unfold winCoord
  split_ifs with h
  · rw [Option.some.injEq]; omega
  · exact iff_of_false nofun (by omega)

/-- The position of the window at the offset indices `q`, if it lies in the image. -/
def winPosAt (k w h x y : Nat) (q : Nat × Nat) : Option WinPos :=
  match winCoord k w x q.1, winCoord k h y q.2 with
  | some u, some v => some ⟨u, v, q.1 + k * q.2⟩
  | _, _ => none

theorem winPosAt_eq_some {k w h x y : Nat} {q : Nat × Nat} {p : WinPos} :
    winPosAt k w h x y q = some p ↔
      (p.u < w ∧ p.u + k / 2 = x + q.1) ∧ (p.v < h ∧ p.v + k / 2 = y + q.2) ∧ p.i = q.1 + k * q.2 := by
  rw [← winCoord_eq_some, ← winCoord_eq_some]
  unfold winPosAt
  obtain ⟨u, v, i⟩ := p
  cases winCoord k w x q.1 <;> cases winCoord k h y q.2 <;> simp [eq_comm]

/-- A window walks the pairs of offset indices. -/
theorem window_eq_filterMap (k w h x y : Nat) :
    window k w h x y = (List.range k ×ˢ List.range k).filterMap (winPosAt k w h x y) := by
  change _ = (List.flatMap _ _).filterMap _
  simp only [List.filterMap_flatMap, List.filterMap_map]
  rfl

/-- The pixel of a position. -/
def WinPos.pixel (p : WinPos) : Nat × Nat := (p.u, p.v)

/-- Different offsets lead to different pixels. -/
theorem nodup_map_pixel_window (k w h x y : Nat) : ((window k w h x y).map WinPos.pixel).Nodup := by
  rw [window_eq_filterMap, List.map_filterMap]
  refine (List.nodup_range.product List.nodup_range).filterMap fun q q' p hq hq' => ?_
  simp only [Option.mem_def, Option.map_eq_some_iff, winPosAt_eq_some] at hq hq'
  obtain ⟨b, ⟨⟨-, hu⟩, ⟨-, hv⟩, -⟩, rfl⟩ := hq
  obtain ⟨b', ⟨⟨-, hu'⟩, ⟨-, hv'⟩, -⟩, hb⟩ := hq'
  obtain ⟨hbu, hbv⟩ := Prod.mk.inj hb
  exact Prod.ext (by omega) (by omega)

/-- The pixels of the window of side `k` about (x, y), as the statements spell them. -/
abbrev winPixels (k : Nat) (t : Slot) (x y : Nat) : Finset (Nat × Nat) :=
  (Finset.range t.width ×ˢ Finset.range t.height).filter fun p => inWindow k t x y p = true

/-- The KRAM entry of pixel `p` of the window (R151). -/
def kernelIndex (k x y : Nat) (p : Nat × Nat) : Nat := (p.1 + k / 2 - x) + k * (p.2 + k / 2 - y)

section

variable {k x y : Nat} {t : Slot}

theorem inWindow_iff {p : Nat × Nat} : inWindow k t x y p = true ↔
    (p.1 < t.width ∧ x ≤ p.1 + k / 2 ∧ p.1 + k / 2 < x + k) ∧
      p.2 < t.height ∧ y ≤ p.2 + k / 2 ∧ p.2 + k / 2 < y + k := by
  simp only [inWindow, Bool.and_eq_true, decide_eq_true_eq]
  omega

theorem mem_winPixels {p : Nat × Nat} : p ∈ winPixels k t x y ↔ inWindow k t x y p = true := by
  rw [Finset.mem_filter, Finset.mem_product, Finset.mem_range, Finset.mem_range, and_iff_right_iff_imp]
  intro h
  obtain ⟨⟨hu, -⟩, hv, -⟩ := inWindow_iff.mp h
  exact ⟨hu, hv⟩

/-- The positions that a window walks: its pixels, each with its KRAM entry. -/
theorem mem_window {p : WinPos} : p ∈ window k t.width t.height x y ↔
    inWindow k t x y p.pixel = true ∧ p.i = kernelIndex k x y p.pixel := by
  simp only [window_eq_filterMap, List.mem_filterMap, Prod.exists, List.mem_product, List.mem_range, winPosAt_eq_some,
    inWindow_iff, kernelIndex, WinPos.pixel]
  constructor
  · rintro ⟨i, j, ⟨hi, hj⟩, ⟨hu, hu'⟩, ⟨hv, hv'⟩, hindex⟩
    have hdx : p.u + k / 2 - x = i := by omega
    have hdy : p.v + k / 2 - y = j := by omega
    exact ⟨by omega, by rw [hindex, hdx, hdy]⟩
  · rintro ⟨⟨⟨hu, hx, hx'⟩, hv, hy, hy'⟩, hindex⟩
    exact ⟨p.u + k / 2 - x, p.v + k / 2 - y, by omega, by omega, by omega, hindex⟩

/-- What a window yields of its pixels. -/
theorem mem_map_window {α : Type} {g : Nat × Nat → α} {v : α} :
    v ∈ (window k t.width t.height x y).map (fun p => g p.pixel) ↔ ∃ p, inWindow k t x y p = true ∧ g p = v := by
  rw [List.mem_map]
  constructor
  · rintro ⟨p, hp, rfl⟩
    exact ⟨p.pixel, (mem_window.mp hp).1, rfl⟩
  · rintro ⟨p, hp, rfl⟩
    exact ⟨⟨p.1, p.2, kernelIndex k x y p⟩, mem_window.mpr ⟨hp, rfl⟩, rfl⟩

/-- The pixels that a window walks are, each once, those of the window. -/
theorem map_pixel_window : ((window k t.width t.height x y).map WinPos.pixel : Multiset (Nat × Nat)) =
    (winPixels k t x y).val := by
  refine (Multiset.Nodup.ext (Multiset.coe_nodup.mpr (nodup_map_pixel_window ..)) (Finset.nodup _)).mpr fun p => ?_
  rw [Finset.mem_val, mem_winPixels, Multiset.mem_coe]
  exact (mem_map_window (g := id)).trans ⟨fun ⟨_, hq, h⟩ => h ▸ hq, fun hp => ⟨p, hp, rfl⟩⟩

/-- A window of side 1 or more holds its own pixel. -/
theorem inWindow_self (hk : 1 ≤ k) (hx : x < t.width) (hy : y < t.height) : inWindow k t x y (x, y) = true :=
  inWindow_iff.mpr ⟨⟨hx, by omega, by omega⟩, hy, by omega, by omega⟩

/-! ### Sums over a window -/

/-- A sum accumulated along a list. -/
theorem foldl_add_eq_sum {α : Type} (f : α → Int) (l : List α) :
    l.foldl (fun s p => s + f p) 0 = (l.map f).sum := by
  rw [List.sum_eq_foldl, List.foldl_map]

/-- A sum along the window list of what depends on the pixel alone. -/
theorem foldl_window_eq_sum {f : WinPos → Int} {g : Nat × Nat → Int}
    (h : ∀ p ∈ window k t.width t.height x y, f p = g p.pixel) :
    (window k t.width t.height x y).foldl (fun s p => s + f p) 0 = ∑ p ∈ winPixels k t x y, g p := by
  calc (window k t.width t.height x y).foldl (fun s p => s + f p) 0
      = ((window k t.width t.height x y).map (g ∘ WinPos.pixel)).sum := by
        rw [foldl_add_eq_sum, List.map_congr_left h]; rfl
    _ = (((window k t.width t.height x y).map WinPos.pixel : Multiset (Nat × Nat)).map g).sum := by
        rw [Multiset.map_coe, List.map_map, Multiset.sum_coe]
    _ = ∑ p ∈ winPixels k t x y, g p := by rw [map_pixel_window]; rfl

theorem weightedSum_eq (c : Nat → Int) (lane : Nat → Nat → Nat) :
    weightedSum c lane (window k t.width t.height x y) =
      ∑ p ∈ winPixels k t x y, c (kernelIndex k x y p) * (lane p.1 p.2 : Int) :=
  foldl_window_eq_sum (g := fun p => c (kernelIndex k x y p) * (lane p.1 p.2 : Int)) fun p hp => by
    rw [(mem_window.mp hp).2]; rfl

theorem summedWeight_eq (c : Nat → Int) : summedWeight c (window k t.width t.height x y) =
    ∑ p ∈ winPixels k t x y, c (kernelIndex k x y p) :=
  foldl_window_eq_sum (g := fun p => c (kernelIndex k x y p)) fun p hp => by rw [(mem_window.mp hp).2]

theorem totalWeight_eq (c : Nat → Int) (k : Nat) : totalWeight c k = ∑ i ∈ Finset.range (k * k), c i :=
  foldl_add_eq_sum c _

end

/-! ### FILTER -/

/-- `clamp(v, 0, 255)` as an integer (00_scope.md R11). -/
theorem clampByte_cast (v : Int) : (clampByte v : Int) = max 0 (min 255 v) := by
  unfold clampByte
  omega

theorem filterLane_le (c : Nat → Int) (k : Nat) (factor bias : Int) (w h : Nat) (lane : Nat → Nat → Nat) (x y : Nat) :
    filterLane c k factor bias w h lane x y ≤ 255 := by
  unfold filterLane clampByte
  dsimp only
  omega

/-- FILTER's lane over the pixels of the window (R151, R152). -/
theorem filterLane_cast (c : Nat → Int) (k : Nat) (factor bias : Int) (t : Slot) (lane : Nat → Nat → Nat) (x y : Nat) :
    (filterLane c k factor bias t.width t.height lane x y : Int) = max 0 (min 255 (filterMode
      (∑ p ∈ winPixels k t x y, c (kernelIndex k x y p) * (lane p.1 p.2 : Int))
      (∑ p ∈ winPixels k t x y, c (kernelIndex k x y p)) (∑ i ∈ Finset.range (k * k), c i) factor bias)) := by
  rw [← weightedSum_eq, ← summedWeight_eq, ← totalWeight_eq, ← clampByte_cast]
  rfl

/-- Settles O26: the row command over the sums of `filterLane_cast`. -/
theorem filterConvolves : Obligations.FilterConvolves := by
  intro s a d sb k factor bias hd hv hl hodd hk hp hq img c
  have hside : filterSideOk .default k = true := by rw [filterSideOk_eq, decide_eq_true_eq]; exact ⟨hodd, hk⟩
  have hexec : exec (.filter (.slot a) sb k factor bias) s = rowCommand s (.slot a) sb (filterSideOk .default k)
      fun t x y ch => filterLane c k.toNat factor.toInt bias.toInt t.width t.height (fun u v => t.lane u v ch) x y := rfl
  rw [hexec]
  refine rowCommand_done hd hv hl hside hp hq fun x y ch _ _ _ => ?_
  dsimp only
  rw [toNat_ofNat_byte (filterLane_le ..), filterLane_cast]
  rfl

end Sys2Proof.Machine

end

section

/-! ERODE, DILATE and what relates them (41_convolution.md R155-R157, 42_edge_contour.md R184). -/

namespace Sys2Proof.Machine

set_option Elab.async false

section

variable {t : Slot} {k x y ch : Nat}

theorem mem_laneValues {v : Nat} :
    v ∈ laneValues t k x y ch ↔ ∃ p, inWindow k t x y p = true ∧ t.lane p.1 p.2 ch = v :=
  mem_map_window (g := fun p => t.lane p.1 p.2 ch)

/-- The erosion is the least of 255 and the values of the window. -/
theorem minLane_spec (t : Slot) (k x y ch : Nat) :
    (minLane t k x y ch = 255 ∨ minLane t k x y ch ∈ laneValues t k x y ch) ∧
      minLane t k x y ch ≤ 255 ∧ ∀ v ∈ laneValues t k x y ch, minLane t k x y ch ≤ v := by
  have h : (255 :: laneValues t k x y ch).min? = some (minLane t k x y ch) := List.min?_cons'
  rwa [List.min?_eq_some_iff, List.mem_cons, List.forall_mem_cons] at h

/-- The dilation is the largest of 0 and the values of the window. -/
theorem maxLane_spec (t : Slot) (k x y ch : Nat) :
    (maxLane t k x y ch = 0 ∨ maxLane t k x y ch ∈ laneValues t k x y ch) ∧
      ∀ v ∈ laneValues t k x y ch, v ≤ maxLane t k x y ch := by
  have h : (0 :: laneValues t k x y ch).max? = some (maxLane t k x y ch) := List.max?_cons'
  rw [List.max?_eq_some_iff, List.mem_cons, List.forall_mem_cons] at h
  exact ⟨h.1, h.2.2⟩

theorem maxLane_le (t : Slot) (k x y ch : Nat) : maxLane t k x y ch ≤ 255 := by
  obtain h | h := (maxLane_spec t k x y ch).1
  · omega
  · obtain ⟨p, -, hp⟩ := mem_laneValues.mp h
    exact hp ▸ lane_le t p.1 p.2 ch

/-- A pixel is in its own window. -/
theorem self_mem_laneValues (hk : 1 ≤ k) (hx : x < t.width) (hy : y < t.height) :
    t.lane x y ch ∈ laneValues t k x y ch := mem_laneValues.mpr ⟨(x, y), inWindow_self hk hx hy, rfl⟩

theorem minLane_le_lane (ch : Nat) (hk : 1 ≤ k) (hx : x < t.width) (hy : y < t.height) :
    minLane t k x y ch ≤ t.lane x y ch := (minLane_spec t k x y ch).2.2 _ (self_mem_laneValues hk hx hy)

theorem lane_le_maxLane (ch : Nat) (hk : 1 ≤ k) (hx : x < t.width) (hy : y < t.height) :
    t.lane x y ch ≤ maxLane t k x y ch := (maxLane_spec t k x y ch).2 _ (self_mem_laneValues hk hx hy)

/-- Over a window that holds its pixel the erosion is attained: 255 is no less than that pixel's lane (R155). -/
theorem isWindowMin_minLane (hk : 1 ≤ k) (hx : x < t.width) (hy : y < t.height) :
    IsWindowMin k t x y ch (minLane t k x y ch) := by
  obtain ⟨hmem, -, hle⟩ := minLane_spec t k x y ch
  have hself := self_mem_laneValues (ch := ch) hk hx hy
  refine ⟨mem_laneValues.mp ?_, fun p hp => hle _ (mem_laneValues.mpr ⟨p, hp, rfl⟩)⟩
  obtain h | h := hmem
  · have hlane : t.lane x y ch = minLane t k x y ch := by have := hle _ hself; have := lane_le t x y ch; omega
    exact hlane ▸ hself
  · exact h

/-- Over a window that holds its pixel the dilation is attained: 0 is no more than that pixel's lane (R156). -/
theorem isWindowMax_maxLane (hk : 1 ≤ k) (hx : x < t.width) (hy : y < t.height) :
    IsWindowMax k t x y ch (maxLane t k x y ch) := by
  obtain ⟨hmem, hle⟩ := maxLane_spec t k x y ch
  have hself := self_mem_laneValues (ch := ch) hk hx hy
  refine ⟨mem_laneValues.mp ?_, fun p hp => hle _ (mem_laneValues.mpr ⟨p, hp, rfl⟩)⟩
  obtain h | h := hmem
  · have hlane : t.lane x y ch = maxLane t k x y ch := by have := hle _ hself; omega
    exact hlane ▸ hself
  · exact h

end

/-- The side check of the window commands passes for every side from 1 on (R154). -/
theorem winSideOk_of_pos {k : Byte} (hk : 1 ≤ k.toNat) : winSideOk .default k = true := by
  rw [winSideOk_eq, decide_eq_true_eq]
  exact ⟨hk, Nat.le_of_lt_succ k.isLt⟩

/-- Settles O27. -/
theorem erodeTakesTheWindowMinimum : Obligations.ErodeTakesTheWindowMinimum := by
  intro s a d sb k hd hv hl hk hp hq
  have hexec : exec (.erode (.slot a) sb k) s = rowCommand s (.slot a) sb (winSideOk .default k)
      fun t x y ch => minLane t k.toNat x y ch := rfl
  rw [hexec]
  refine rowCommand_done hd hv hl (winSideOk_of_pos hk) hp hq fun x y ch hx hy _ => ?_
  rw [toNat_ofNat_byte (minLane_spec ..).2.1]
  exact isWindowMin_minLane hk hx hy

/-- Settles O28. -/
theorem dilateTakesTheWindowMaximum : Obligations.DilateTakesTheWindowMaximum := by
  intro s a d sb k hd hv hl hk hp hq
  have hexec : exec (.dilate (.slot a) sb k) s = rowCommand s (.slot a) sb (winSideOk .default k)
      fun t x y ch => maxLane t k.toNat x y ch := rfl
  rw [hexec]
  refine rowCommand_done hd hv hl (winSideOk_of_pos hk) hp hq fun x y ch hx hy _ => ?_
  rw [toNat_ofNat_byte (maxLane_le ..)]
  exact isWindowMax_maxLane hk hx hy

/-! ### EDGE and CONTOUR against them -/

/-- The largest excess over `c` is the excess of the largest. -/
theorem foldl_max_sub (l : List Nat) (c m : Nat) :
    (l.map fun v => v - c).foldl max (m - c) = l.foldl max m - c := by
  induction l generalizing m with
  | nil => rfl
  | cons v l ih =>
    have hstep : max (m - c) (v - c) = max m v - c := by omega
    rw [List.map_cons, List.foldl_cons, List.foldl_cons, hstep, ih]

/-- CONTOUR's difference (42_edge_contour.md R182) is the dilation's excess over the pixel at side 3. -/
theorem contourDiff_eq (t : Slot) (x y ch : Nat) : contourDiff t x y ch = maxLane t 3 x y ch - t.lane x y ch := by
  have h := foldl_max_sub (laneValues t 3 x y ch) (t.lane x y ch) 0
  rwa [Nat.zero_sub] at h

/-- The complement of an excess over a byte, put back. -/
theorem complement_add_sub {m : Nat} (h : m ≤ 255) (v : Nat) : 255 - (m - v) + (m - v) = 255 := by omega

theorem contourLane_eq (t : Slot) (x y ch : Nat) :
    contourLane t x y ch = 255 - (maxLane t 3 x y ch - t.lane x y ch) := by rw [contourLane, contourDiff_eq]

/-- Settles O36: the pixel's lane lies between the erosion and the dilation of a window that holds it. -/
theorem morphologyRelations : Obligations.MorphologyRelations := by
  intro t k x y ch hk hx hy
  have hmin : ∀ j, 1 ≤ j → minLane t j x y ch ≤ t.lane x y ch := fun j hj => minLane_le_lane ch hj hx hy
  have hmax : t.lane x y ch ≤ maxLane t k x y ch := lane_le_maxLane ch hk hx hy
  have htop : ∀ j, maxLane t j x y ch ≤ 255 := fun j => maxLane_le t j x y ch
  have hedge3 : edgeLane t 3 x y ch ≤ contourLane t x y ch := by
    rw [contourLane_eq, edgeLane]
    have hspread := Nat.sub_le_sub_left (hmin 3 (by decide)) (maxLane t 3 x y ch)
    exact Nat.sub_le_sub_left hspread 255
  refine ⟨hmin k hk, hmax, htop k, ?edge, ?contour, hedge3⟩
  case edge => rw [edgeLane, complement_add_sub (htop k)]
  case contour => rw [contourLane_eq, complement_add_sub (htop 3)]

end Sys2Proof.Machine

end

section

/-! MEDIAN (41_convolution.md R169, R170): sorting keys, the rank of a sorted list's element, and the window's keys. -/

namespace Sys2Proof.Machine

set_option Elab.async false

/-! ### Sorting keys -/

theorem insertKey_perm (a : Nat) (l : List Nat) : (insertKey a l).Perm (a :: l) := by
  induction l with
  | nil => exact .refl _
  | cons b l ih =>
    rw [insertKey]
    split
    · exact .refl _
    · exact (ih.cons b).trans (.swap a b l)

theorem sortKeys_perm (l : List Nat) : (sortKeys l).Perm l := by
  induction l with
  | nil => exact .refl _
  | cons a l ih => exact (insertKey_perm a _).trans (ih.cons a)

theorem insertKey_pairwise {l : List Nat} (h : l.Pairwise (· ≤ ·)) (a : Nat) : (insertKey a l).Pairwise (· ≤ ·) := by
  induction l with
  | nil => exact List.pairwise_singleton _ a
  | cons b l ih =>
    have hb : ∀ {c}, c ∈ l → b ≤ c := List.rel_of_pairwise_cons h
    rw [insertKey]
    split
    · next hab =>
      refine h.cons fun c hc => ?_
      obtain rfl | hc := List.mem_cons.mp hc
      · exact hab.le
      · exact hab.le.trans (hb hc)
    · next hab =>
      refine (ih h.of_cons).cons fun c hc => ?_
      obtain rfl | hc := List.mem_cons.mp ((insertKey_perm a l).mem_iff.mp hc)
      · exact Nat.le_of_not_lt hab
      · exact hb hc

theorem sortKeys_pairwise (l : List Nat) : (sortKeys l).Pairwise (· ≤ ·) := by
  induction l with
  | nil => exact .nil
  | cons a l ih => exact insertKey_pairwise ih a

/-! ### The rank of an element of a sorted list -/

/-- At most `i` elements lie below the one at position `i`. -/
theorem countP_lt_le {l : List Nat} (h : l.Pairwise (· ≤ ·)) {i : Nat} (hi : i < l.length) :
    l.countP (· < l[i]) ≤ i := by
  induction l generalizing i with
  | nil => cases hi
  | cons a l ih =>
    cases i with
    | zero =>
      rw [Nat.le_zero, List.countP_eq_zero]
      intro b hb
      obtain rfl | hb := List.mem_cons.mp hb
      · simp
      · simpa using List.rel_of_pairwise_cons h hb
    | succ i =>
      have hrest := ih h.of_cons (Nat.lt_of_succ_lt_succ hi)
      rw [List.countP_cons, List.getElem_cons_succ]
      split <;> omega

/-- More than `i` elements do not exceed the one at position `i`. -/
theorem lt_countP_le {l : List Nat} (h : l.Pairwise (· ≤ ·)) {i : Nat} (hi : i < l.length) :
    i < l.countP (· ≤ l[i]) := by
  induction l generalizing i with
  | nil => cases hi
  | cons a l ih =>
    cases i with
    | zero => simp
    | succ i =>
      have hrest := ih h.of_cons (Nat.lt_of_succ_lt_succ hi)
      have ha : a ≤ l[i]'(Nat.lt_of_succ_lt_succ hi) := List.rel_of_pairwise_cons h (List.getElem_mem _)
      rw [List.countP_cons, List.getElem_cons_succ, if_pos (decide_eq_true ha)]
      omega

/-! ### The window's keys -/

/-- Channel `ch` of a key is that of its pixel (R169). -/
theorem keyLane_medianKey {t : Slot} {ch : Nat} (hch : ch < t.lanes) (x y : Nat) :
    keyLane t (medianKey t x y) ch = t.lane x y ch := by
  have hb := fun c => lane_le t x y c
  have h0 := hb 0
  have h1 := hb 1
  have h2 := hb 2
  unfold Slot.lanes Slot.bpb at hch
  unfold keyLane medianKey
  split_ifs at hch ⊢ with hdepth hc0 hc1
  · subst hc0; omega
  · subst hc1; omega
  · obtain rfl : ch = 2 := by omega
    omega
  · obtain rfl : ch = 0 := by omega
    rfl

section

variable {t : Slot} {k x y : Nat}

/-- The keys of a window. -/
def windowKeys (t : Slot) (k x y : Nat) : List Nat :=
  (window k t.width t.height x y).map fun p => medianKey t p.u p.v

/-- How many keys of a window meet `P`, counted over its pixels. -/
theorem countP_windowKeys (P : Nat → Prop) [DecidablePred P] :
    (windowKeys t k x y).countP (fun key => P key) =
      ((winPixels k t x y).filter fun q => P (medianKey t q.1 q.2)).card := by
  rw [Finset.card_def, Finset.filter_val, ← Multiset.countP_eq_card_filter, ← map_pixel_window, Multiset.coe_countP,
    windowKeys, List.countP_map, List.countP_map]
  rfl

theorem length_windowKeys : (windowKeys t k x y).length = (winPixels k t x y).card := by
  rw [Finset.card_def, ← map_pixel_window, Multiset.coe_card, windowKeys, List.length_map, List.length_map]

theorem mem_windowKeys {key : Nat} :
    key ∈ windowKeys t k x y ↔ ∃ p ∈ winPixels k t x y, medianKey t p.1 p.2 = key := by
  simp only [mem_winPixels]
  exact mem_map_window (g := fun p => medianKey t p.1 p.2)

/-- MEDIAN's lane is that of a pixel whose key stands in the middle of the window's keys (R169, R170). -/
theorem medianLane_spec {ch : Nat} (hk : 1 ≤ k) (hx : x < t.width) (hy : y < t.height) (hch : ch < t.lanes) :
    ∃ p ∈ winPixels k t x y, medianLane t k x y ch = t.lane p.1 p.2 ch ∧
      ((winPixels k t x y).filter fun q => medianKey t q.1 q.2 < medianKey t p.1 p.2).card ≤
        (winPixels k t x y).card / 2 ∧
      (winPixels k t x y).card / 2 <
        ((winPixels k t x y).filter fun q => medianKey t q.1 q.2 ≤ medianKey t p.1 p.2).card := by
  have hperm := sortKeys_perm (windowKeys t k x y)
  have hsorted := sortKeys_pairwise (windowKeys t k x y)
  have hpos : 0 < (winPixels k t x y).card :=
    Finset.card_pos.mpr ⟨(x, y), mem_winPixels.mpr (inWindow_self hk hx hy)⟩
  have hmid : (winPixels k t x y).card / 2 < (sortKeys (windowKeys t k x y)).length := by
    rw [hperm.length_eq, length_windowKeys]
    omega
  obtain ⟨p, hp, hkey⟩ := mem_windowKeys.mp (hperm.mem_iff.mp (List.getElem_mem hmid))
  have hlane : medianLane t k x y ch = keyLane t (sortKeys (windowKeys t k x y))[(winPixels k t x y).card / 2] ch := by
    rw [← List.getD_eq_getElem _ 0 hmid, ← length_windowKeys]
    rfl
  refine ⟨p, hp, ?_, ?_, ?_⟩
  · rw [hlane, ← hkey, keyLane_medianKey hch]
  · rw [← countP_windowKeys (P := fun key => key < _), hkey, ← hperm.countP_eq]
    exact countP_lt_le hsorted hmid
  · rw [← countP_windowKeys (P := fun key => key ≤ _), hkey, ← hperm.countP_eq]
    exact lt_countP_le hsorted hmid

end

theorem medianLane_le {t : Slot} {k x y ch : Nat} (hk : 1 ≤ k) (hx : x < t.width) (hy : y < t.height)
    (hch : ch < t.lanes) : medianLane t k x y ch ≤ 255 := by
  obtain ⟨p, -, hp, -⟩ := medianLane_spec hk hx hy hch
  exact hp ▸ lane_le t p.1 p.2 ch

/-- Settles O31. -/
theorem medianTakesTheMiddleKey : Obligations.MedianTakesTheMiddleKey := by
  intro s a d sb k hd hv hl hk hp hq img key
  have hexec : exec (.median (.slot a) sb k) s = rowCommand s (.slot a) sb (winSideOk .default k)
      fun t x y ch => medianLane t k.toNat x y ch := rfl
  rw [hexec]
  refine rowCommand_done hd hv hl (winSideOk_of_pos hk) hp hq fun x y ch hx hy hch => ?_
  rw [toNat_ofNat_byte (medianLane_le hk hx hy hch)]
  exact medianLane_spec hk hx hy hch

end Sys2Proof.Machine

end

section

/-! The Gaussian blur (41_convolution.md R158-R163): the kernel's weights, the passes, and GAUSSBLUR. -/

namespace Sys2Proof.Machine

set_option Elab.async false

/-! ### Values that fit a byte (40_common.md R127) -/

theorem trunc_le_of_lt {v : F64} (h : F64.lt v (F64.ofNat 255) = true) : v.trunc ≤ 255 := by
  have h255 : F64.ofNat 255 = .fin false (255 * 2 ^ 45) 1029 := by decide +kernel
  have htop : F64.units (255 * 2 ^ 45) 1029 >>> 1074 = 255 := by decide +kernel
  have hmono : ∀ {a b : Nat} (s : Nat), a ≤ b → a >>> s ≤ b >>> s := fun s hab => by
    simp only [Nat.shiftRight_eq_div_pow]
    exact Nat.div_le_div_right hab
  rw [h255] at h
  generalize hU : F64.units (255 * 2 ^ 45) 1029 = top at htop
  cases v with
  | nan => cases h
  | inf neg => exact Int.natCast_nonneg 255
  | fin neg m e =>
    cases neg with
    | true => exact (Int.neg_nonpos_of_nonneg (Int.natCast_nonneg _)).trans (Int.natCast_nonneg 255)
    | false =>
      simp only [F64.lt, F64.sunits, hU, decide_eq_true_eq, Bool.false_eq_true, if_false, Int.ofNat_lt] at h
      have hbyte : F64.units m e >>> 1074 ≤ 255 := htop ▸ hmono 1074 h.le
      simp only [F64.trunc, Bool.false_eq_true, if_false]
      omega

/-- `clampTrunc` stays at 255 or below: what is not below 255.0 becomes 255.0. -/
theorem clampTrunc_le (v : F64) : clampTrunc v ≤ 255 := by
  unfold clampTrunc F64.min
  split_ifs with hnan hlt
  · exact Nat.zero_le _
  · exact Int.toNat_le.mpr (trunc_le_of_lt hlt)
  · decide +kernel

/-! ### The weights -/

/-- `g` (R159) with the default EXP. -/
theorem gaussG_default (sigma t : F64) : gaussG .default sigma t =
    F64.exp (F64.div (F64.neg (F64.mul t t)) (F64.mul (F64.mul F64.two sigma) sigma)) := by rw [gaussG]

/-- The centre cell's weight before the normalization (R159). -/
theorem rawWeight_centre (r : F64) : rawWeight r (midOf r) = gaussCentre .default (gaussSigma r) := by
  have hd : max (midOf r) (midOf r) - min (midOf r) (midOf r) = 0 := by omega
  simp only [rawWeight, hd, if_true, gaussCentre, gaussG_default]
  rfl

/-- The weight of a cell `d` cells beside the centre, before the normalization (R159). -/
theorem rawWeight_side (r : F64) {i d : Nat} (hd : max i (midOf r) - min i (midOf r) = d) (h0 : d ≠ 0) :
    rawWeight r i = gaussSide .default (gaussSigma r) (gaussHalfWidth r) d := by
  simp only [rawWeight, hd, h0, if_false, gaussSide, gaussG_default]
  rfl

/-- The sides mirrored about the centre are the raw weights in order (R159). -/
theorem mirrored_eq_map_rawWeight (r : F64) :
    ((List.range' 1 (gaussMid r)).map (gaussSide .default (gaussSigma r) (gaussHalfWidth r))).reverse ++
      gaussCentre .default (gaussSigma r) ::
        (List.range' 1 (gaussMid r)).map (gaussSide .default (gaussSigma r) (gaussHalfWidth r)) =
    (List.range (2 * midOf r + 1)).map (rawWeight r) := by
  have hmid : gaussMid r = midOf r := rfl
  rw [hmid]
  refine List.ext_getElem ?_ fun i hi hi' => ?_
  · simp only [List.length_append, List.length_cons, List.length_reverse, List.length_map, List.length_range',
      List.length_range]
    omega
  · simp only [List.length_map, List.length_range] at hi'
    rw [List.getElem_map, List.getElem_range]
    obtain h | rfl | h := Nat.lt_trichotomy i (midOf r)
    · rw [List.getElem_append_left (by simpa using h), rawWeight_side r (d := midOf r - i) (by omega) (by omega)]
      simp only [List.getElem_reverse, List.getElem_map, List.getElem_range', List.length_map, List.length_range']
      congr 1
      omega
    · rw [List.getElem_append_right (by simp), rawWeight_centre]
      simp
    · rw [List.getElem_append_right (by simpa using h.le), rawWeight_side r (d := i - midOf r) (by omega) (by omega)]
      obtain ⟨j, rfl⟩ := Nat.exists_eq_add_of_lt h
      have hoffset : midOf r + j + 1 - midOf r = j + 1 := by omega
      simp only [List.length_reverse, List.length_map, List.length_range', hoffset, List.getElem_cons_succ,
        List.getElem_map, List.getElem_range', Nat.one_mul, Nat.add_comm 1 j]

/-- The weights are the raw weights, each divided by their sum from left to right (R159). -/
theorem gaussWeights_eq (r : F64) : gaussWeights .default r = (List.range (2 * midOf r + 1)).map fun i =>
    F64.div (rawWeight r i)
      ((List.range' 1 (2 * midOf r)).foldl (fun acc j => F64.add acc (rawWeight r j)) (rawWeight r 0)) := by
  have hraw := mirrored_eq_map_rawWeight r
  have hcons : (List.range (2 * midOf r + 1)).map (rawWeight r) =
      rawWeight r 0 :: (List.range' 1 (2 * midOf r)).map (rawWeight r) := by
    rw [List.range_eq_range', List.range'_succ, List.map_cons]
  unfold gaussWeights
  dsimp only
  rw [hraw, hcons]
  dsimp only
  rw [List.foldl_map, ← hcons, List.map_map]
  rfl

/-- The weights of a radius are the kernel that Safety says (R158, R159). -/
theorem isGaussKernel_gaussWeights (r : F64) : IsGaussKernel r (gaussWeights .default r) where
  length := by rw [gaussWeights_eq, List.length_map, List.length_range]
  weight i hi := by
    rw [gaussWeights_eq, List.length_map, List.length_range] at hi
    rw [gaussWeights_eq, List.getElem?_map, List.getElem?_range hi]
    rfl

/-! ### The passes -/

/-- The taps of a line: the weights whose sample lies in it, each with its sample (R160). -/
theorem blurTaps_eq (w : List F64) (n : Nat) (a : Nat → Nat) (r : Nat) : blurTaps w n a r =
    ((List.range w.length).filter fun j => decide (w.length / 2 ≤ r + j) && decide (r + j < n + w.length / 2)).map
      fun j => (w.getD j F64.zero, a (r + j - w.length / 2)) := by
  have hindices : w.zipIdx = (List.range w.length).map fun j => (w.getD j F64.zero, j) := by
    refine List.ext_getElem (by simp) fun j hj _ => ?_
    have hlt : j < w.length := by simpa using hj
    simp [hlt]
  rw [blurTaps, hindices, List.filterMap_map, ← List.filterMap_eq_filter, List.map_filterMap]
  refine List.filterMap_congr fun j _ => ?_
  by_cases h : w.length / 2 ≤ r + j ∧ r + j - w.length / 2 < n
  · have hguard : w.length / 2 ≤ r + j ∧ r + j < n + w.length / 2 := by omega
    simp [Option.guard, h, hguard]
  · have hguard : ¬ (w.length / 2 ≤ r + j ∧ r + j < n + w.length / 2) := by omega
    simp only [not_and] at hguard
    simpa [Option.guard, h] using hguard

/-- A blurred line is the one that Safety says (R160). -/
theorem linblur_eq (w : List F64) (n : Nat) (a : Nat → Nat) (r : Nat) : linblur w n a r = blurredLine w n a r := by
  simp only [linblur, blurredLine, blurTaps_eq, List.length_map, List.foldl_map, lutEntry]

/-- The two passes (R161). -/
theorem blurLane_eq (w : List F64) (t : Slot) (x y ch : Nat) : blurLane w t x y ch = twoPassBlur w t x y ch := by
  simp only [blurLane, rowPass, linblur_eq, twoPassBlur]

theorem blurLane_le (w : List F64) (t : Slot) (x y ch : Nat) : blurLane w t x y ch ≤ 255 := by
  unfold blurLane linblur
  dsimp only
  split <;> exact clampTrunc_le _

/-! ### The commands that write the columns of the blur -/

/-- A column command that nothing stops writes the blur at the pixels `wr` (40_common.md R121, R135). -/
theorem columnCommand_done {s : State} {a d : SlotNo} {sb : SlotArg} {params : Bool} {w : List F64}
    {which : Slot → Nat → Nat → Bool} {wr : Nat → Nat → Prop} (hd : dest a sb = .ok d)
    (hv : (s.slot a).valid .default = true) (hl : (s.slot a).laned = true) (hparams : params = true)
    (hp : s.pollsPass (s.slot a).width) (hq : s.quiet (s.slot a).width)
    (hwhich : ∀ x y, which (s.slot a) x y = true ↔ wr x y) :
    ∃ t, sameFormatCommand s (.slot a) sb params Slot.width (fun t k x y => decide (x < k) && which t x y)
        (blurLane w) = .next t ∧
      SameFormatDone s t a d wr fun x y ch v => v.toNat = twoPassBlur w (s.slot a) x y ch := by
  refine sameFormatCommand_done (sameFormat_of hd hv hl hparams) hp hq (fun x y hx _ => ?_) fun x y ch _ _ _ _ => ?_
  · rw [decide_eq_true hx, Bool.true_and, hwhich]
  · rw [toNat_ofNat_byte (blurLane_le ..), blurLane_eq]

theorem radiusOk_default {radius : Word} (hfin : (F64.ofF32 radius).isFinite = true)
    (hle : F64.le (F64.ofF32 radius).abs (F64.ofNat 255) = true) : radiusOk .default (F64.ofF32 radius) = true :=
  Bool.and_eq_true_iff.mpr ⟨hfin, hle⟩

theorem exec_gaussblur (s : State) (sa sb : SlotArg) (radius : Word) : exec (.gaussblur sa sb radius) s =
    sameFormatCommand s sa sb (radiusOk .default (F64.ofF32 radius)) Slot.width
      (fun t k x y => decide (x < k) && t.inscope x y) (blurLane (gaussWeights .default (F64.ofF32 radius))) := by
  simp only [exec, execGaussblur, sameFormatCommand]
  cases s.sameFormat sa sb _ <;> rfl

/-- Settles O32. -/
theorem gaussblurBlursEveryPixelInScope : Obligations.GaussblurBlursEveryPixelInScope := by
  intro s a d sb radius hd hv hl hfin hle hp hq
  obtain ⟨t, hexec, hdone⟩ := columnCommand_done (which := Slot.inscope)
    (w := gaussWeights .default (F64.ofF32 radius)) hd hv hl (radiusOk_default hfin hle) hp hq fun _ _ => Iff.rfl
  exact ⟨_, t, isGaussKernel_gaussWeights _, (exec_gaussblur ..).trans hexec, hdone⟩

end Sys2Proof.Machine

end

section

/-! GAUSSBLUR of radius ±0, UNSHARP and SELBLUR (41_convolution.md R163-R168). -/

namespace Sys2Proof.Machine

set_option Elab.async false

/-! ### The kernel of radius ±0 -/

/-- The sum of two numbers that are not negative, in the form that the kernel evaluates at once. -/
def F64.addUp : F64 → F64 → F64
  | .fin false ma ea, .fin false mb eb => F64.roundQ false (F64.units ma ea + F64.units mb eb) 1
  | x, y => F64.add x y

theorem F64.add_eq_addUp (x y : F64) : F64.add x y = F64.addUp x y := by
  unfold F64.addUp
  split
  · simp only [F64.add, withNat_eq, if_true]
  · rfl

/-- A sample under the one weight 1.0 keeps its value. -/
theorem roundByte_lutEntry_one : ∀ v, v < 256 → roundByte (F64.add F64.zero (lutEntry F64.one v)) = v := by
  simp only [roundByte, F64.add_eq_addUp]
  decide +kernel

/-- A line under one weight. -/
theorem linblur_singleton (weight : F64) {n r : Nat} {a : Nat → Nat} (hr : r < n) :
    linblur [weight] n a r = roundByte (F64.add F64.zero (lutEntry weight (a r))) := by
  have htaps : blurTaps [weight] n a r = [(weight, a r)] := by simp [blurTaps, hr]
  simp only [linblur, htaps, List.length_singleton, if_true, List.foldl_cons, List.foldl_nil]

theorem linblur_one {n r : Nat} {a : Nat → Nat} (hr : r < n) (ha : a r ≤ 255) : linblur [F64.one] n a r = a r := by
  rw [linblur_singleton F64.one hr, roundByte_lutEntry_one (a r) (by omega)]

/-- The kernel of the one weight 1.0 leaves the image as it is (R163). -/
theorem blurLane_one {t : Slot} {x y : Nat} (hx : x < t.width) (hy : y < t.height) (ch : Nat) :
    blurLane [F64.one] t x y ch = t.lane x y ch := by
  have hrow : ∀ v, rowPass [F64.one] t x v ch = t.lane x v ch := fun v => linblur_one hx (lane_le t x v ch)
  rw [blurLane, linblur_one hy (hrow y ▸ lane_le t x y ch), hrow]

/-- A lane of an RGB24 or GRAY8 image is the byte it is stored in (10_state.md R46, 40_common.md R119). -/
theorem lane_of_laned {t : Slot} (h : t.laned = true) (x y ch : Nat) :
    t.lane x y ch = (t.pixByte (t.offsetOf x y ch)).toNat := by
  have hdepth : t.depth ≠ 1#2 := fun h1 => by simp [Slot.laned, Slot.cls, h1] at h
  exact if_neg hdepth

/-- An image whose written lanes are the source's is a copy of the source. -/
theorem ResultImage.copyOf {src old new : Slot} {wr : Nat → Nat → Prop} {post : Nat → Nat → Nat → Byte → Prop}
    (h : ResultImage src old new wr post)
    (hsame : ∀ x y ch v, x < src.width → y < src.height → post x y ch v → v = src.pixByte (src.offsetOf x y ch)) :
    CopyOf src old new where
  descriptor := h.descriptor
  palette := h.palette
  written _ _ _ _ _ _ hf := hf.elim
  kept x y ch hx hy hch _ := by
    by_cases hwr : wr x y
    · exact hsame x y ch _ hx hy (h.written x y ch hx hy hch hwr)
    · exact h.kept x y ch hx hy hch hwr
  beyond := h.beyond
  alphaPlane := h.alphaPlane
  selPlane := h.selPlane

/-- The radius +0 and the radius −0 are finite, within RMAX, and have the one weight 1.0 (R163). -/
theorem gaussWeights_zero {radius : Word} (h : radius = 0#32 ∨ radius = 0x80000000#32) :
    radiusOk .default (F64.ofF32 radius) = true ∧ gaussWeights .default (F64.ofF32 radius) = [F64.one] := by
  obtain rfl | rfl := h <;> decide +kernel

/-- Settles O33: the general blur with the kernel of radius ±0 writes what is there. -/
theorem gaussblurOfRadiusZeroIsTheIdentity : Obligations.GaussblurOfRadiusZeroIsTheIdentity := by
  intro s a d sb radius hradius hd hv hl hp hq
  obtain ⟨hok, hw⟩ := gaussWeights_zero hradius
  obtain ⟨t, hexec, hdone⟩ := columnCommand_done (which := Slot.inscope) (w := [F64.one]) hd hv hl hok hp hq
    fun _ _ => Iff.rfl
  refine ⟨hw, t, (exec_gaussblur ..).trans (by rw [hw]; exact hexec), hdone.outcome, hdone.result, hdone.others,
    hdone.image.copyOf fun x y ch v hx hy hpost => BitVec.eq_of_toNat_eq ?_⟩
  rw [hpost, ← blurLane_eq, blurLane_one hx hy, lane_of_laned hl]

/-! ### UNSHARP -/

theorem unsharp1_eq (amount : F64) (threshold : Int) (v b : Nat) : unsharp1 amount threshold v b =
    if |(v : Int) - b| < threshold then v
    else clampTrunc (F64.add (F64.ofNat v) (F64.mul amount (F64.ofInt ((v : Int) - b)))) := by
  rw [unsharp1, Int.natCast_natAbs]

theorem unsharp1_le (amount : F64) (threshold : Int) {v : Nat} (b : Nat) (hv : v ≤ 255) :
    unsharp1 amount threshold v b ≤ 255 := by
  rw [unsharp1_eq]
  split
  · exact hv
  · exact clampTrunc_le _

/-- Settles O34. -/
theorem unsharpMergesWithTheBlur : Obligations.UnsharpMergesWithTheBlur := by
  intro s a d sb radius amount threshold hd hv hl hfin hle hamount hp hq
  let w := gaussWeights .default (F64.ofF32 radius)
  have hexec : exec (.unsharp (.slot a) sb radius amount threshold) s = rowCommand s (.slot a) sb
      (radiusOk .default (F64.ofF32 radius) && (F64.ofF32 amount).isFinite)
      fun t x y ch => unsharp1 (F64.ofF32 amount) threshold.toInt (t.lane x y ch) (blurLane w t x y ch) := rfl
  have hparams := Bool.and_eq_true_iff.mpr ⟨radiusOk_default hfin hle, hamount⟩
  refine ⟨w, ?_⟩
  simp only [exists_and_left]
  refine ⟨isGaussKernel_gaussWeights _, ?_⟩
  rw [hexec]
  refine rowCommand_done hd hv hl hparams hp hq fun x y ch _ _ _ => ?_
  rw [toNat_ofNat_byte (unsharp1_le _ _ _ (lane_le ..)), unsharp1_eq, blurLane_eq]

/-! ### SELBLUR -/

/-- The coefficient of pixel `p` in the Laplacian about (x, y) (R167). -/
abbrev lapCoef (x y : Nat) (p : Nat × Nat) : Int := if p = (x, y) then 801 else -100

theorem laplacianCoef_kernelIndex {t : Slot} {x y : Nat} {p : Nat × Nat} (hp : p ∈ winPixels 3 t x y) :
    laplacianCoef (kernelIndex 3 x y p) = lapCoef x y p := by
  obtain ⟨⟨-, hx, hx'⟩, -, hy, hy'⟩ := inWindow_iff.mp (mem_winPixels.mp hp)
  have hcentre : kernelIndex 3 x y p = 4 ↔ p = (x, y) := by
    rw [kernelIndex, Prod.ext_iff]
    dsimp only
    omega
  simp only [laplacianCoef, lapCoef, hcentre]

/-- The Laplacian's weights sum to 1, so its divisor is the weight summed times 800 (R152, R167). -/
theorem filterMode_laplacian (sum summed : Int) : filterMode sum summed 1 800 128 =
    if summed = 0 then sum + 128 else if summed = 1 then Int.tdiv sum 800 + 128
    else Int.tdiv sum (summed * 800) + 128 := by
  simp only [filterMode, Int.reduceEq, false_or, mul_one]

/-- A lane of the Laplacian image over the pixels of the window (R167). -/
theorem laplacian_cast (t : Slot) (x y ch : Nat) : (laplacian t x y ch : Int) = max 0 (min 255 (filterMode
    (∑ p ∈ winPixels 3 t x y, lapCoef x y p * (t.lane p.1 p.2 ch : Int)) (∑ p ∈ winPixels 3 t x y, lapCoef x y p)
    1 800 128)) := by
  have htotal : ∑ i ∈ Finset.range (3 * 3), laplacianCoef i = 1 := by decide
  have hsummed := Finset.sum_congr rfl fun p (hp : p ∈ winPixels 3 t x y) => laplacianCoef_kernelIndex hp
  have hsum := Finset.sum_congr rfl fun p (hp : p ∈ winPixels 3 t x y) =>
    congrArg (· * (t.lane p.1 p.2 ch : Int)) (laplacianCoef_kernelIndex hp)
  rw [laplacian, filterLane_cast, htotal, hsummed, hsum]

/-- Which pixels SELBLUR blurs: those with a lane of the Laplacian outside the band (R167; assumption 8). -/
theorem qualifies_iff {t : Slot} {thr x y : Nat} : qualifies .default t thr x y = true ↔
    t.inscope x y = true ∧ ∃ ch, ch < t.lanes ∧ ((laplacian t x y ch : Int) < max 0 (128 - (thr : Int)) ∨
      min 255 (128 + (thr : Int)) < (laplacian t x y ch : Int)) := by
  have hband : ∀ v : Nat, (!inBand thr v) = true ↔
      (v : Int) < max 0 (128 - (thr : Int)) ∨ min 255 (128 + (thr : Int)) < (v : Int) := fun v => by
    rw [inBand, Bool.not_eq_true', Bool.and_eq_false_iff, decide_eq_false_iff_not, decide_eq_false_iff_not]
    omega
  simp only [qualifies, Bool.and_eq_true, List.any_eq_true, List.mem_range, hband]

theorem exec_selblur (s : State) (sa sb : SlotArg) (radius : Word) (threshold : Byte) :
    exec (.selblur sa sb radius threshold) s =
      sameFormatCommand s sa sb (radiusOk .default (F64.ofF32 radius)) Slot.width
        (fun t k x y => decide (x < k) && qualifies .default t threshold.toNat x y)
        (blurLane (gaussWeights .default (F64.ofF32 radius))) := by
  simp only [exec, execSelblur, sameFormatCommand]
  cases s.sameFormat sa sb _ <;> rfl

/-- Settles O35. -/
theorem selblurBlursOutsideTheBand : Obligations.SelblurBlursOutsideTheBand := by
  intro s a d sb radius threshold hd hv hl hfin hle hp hq img lap
  have hlap : ∀ x y ch, lap x y ch = laplacian img x y ch := fun x y ch => by
    rw [laplacian_cast, filterMode_laplacian]
  obtain ⟨t, hexec, hdone⟩ := columnCommand_done
    (which := fun t => qualifies .default t threshold.toNat) (w := gaussWeights .default (F64.ofF32 radius))
    hd hv hl (radiusOk_default hfin hle) hp hq fun _ _ => qualifies_iff
  simp only [hlap]
  exact ⟨_, t, isGaussKernel_gaussWeights _, (exec_selblur ..).trans hexec, hdone⟩

end Sys2Proof.Machine

end

section

/-! EDGE and CONTOUR (42_edge_contour.md R180-R183): each writes the complement of a gap between two lane values. -/

namespace Sys2Proof.Machine

set_option Elab.async false

/-- The byte written for the complement of the gap from `lo` up to `hi`, as the statements spell it. -/
theorem complementByte_cast {lo hi : Nat} (hle : lo ≤ hi) (hhi : hi ≤ 255) :
    ((BitVec.ofNat 8 (255 - (hi - lo))).toNat : Int) = 255 - ((hi : Int) - lo) := by
  rw [toNat_ofNat_byte (Nat.sub_le ..)]
  omega

section

variable {t : Slot} {k x y : Nat}

theorem edgeByte_cast (ch : Nat) (hk : 1 ≤ k) (hx : x < t.width) (hy : y < t.height) :
    ((BitVec.ofNat 8 (edgeLane t k x y ch)).toNat : Int) =
      255 - ((maxLane t k x y ch : Int) - minLane t k x y ch) :=
  complementByte_cast ((minLane_le_lane ch hk hx hy).trans (lane_le_maxLane ch hk hx hy)) (maxLane_le ..)

theorem contourByte_cast (ch : Nat) (hx : x < t.width) (hy : y < t.height) :
    ((BitVec.ofNat 8 (contourLane t x y ch)).toNat : Int) =
      255 - ((maxLane t 3 x y ch : Int) - t.lane x y ch) := by
  rw [contourLane_eq]
  exact complementByte_cast (lane_le_maxLane ch (by decide) hx hy) (maxLane_le ..)

end

/-- Settles O29: the dilation and the erosion are the `mx` and `mn` of R180. -/
theorem edgeIsTheInvertedSpread : Obligations.EdgeIsTheInvertedSpread := by
  intro s a d sb k hd hv hl hk hp hq
  have hexec : exec (.edge (.slot a) sb k) s = rowCommand s (.slot a) sb (winSideOk .default k)
      fun t x y ch => edgeLane t k.toNat x y ch := rfl
  rw [hexec]
  refine rowCommand_done hd hv hl (winSideOk_of_pos hk) hp hq fun x y ch hx hy _ => ?_
  exact ⟨_, _, isWindowMax_maxLane hk hx hy, isWindowMin_minLane hk hx hy, edgeByte_cast ch hk hx hy⟩

/-- Settles O30: the pixel that attains the dilation at side 3 has the largest difference to the centre (R182). -/
theorem contourIsTheInvertedGradient : Obligations.ContourIsTheInvertedGradient := by
  intro s a d sb hd hv hl hp hq
  have hexec : exec (.contour (.slot a) sb) s = rowCommand s (.slot a) sb true fun t x y ch => contourLane t x y ch := rfl
  rw [hexec]
  refine rowCommand_done hd hv hl rfl hp hq fun x y ch hx hy _ => ?_
  obtain ⟨⟨p, hwin, hmax⟩, hle⟩ := isWindowMax_maxLane (ch := ch) (k := 3) (by decide) hx hy
  dsimp only
  rw [contourByte_cast ch hx hy]
  refine ⟨⟨p, hwin, by rw [hmax]⟩, fun q hq => ?_⟩
  have hlane := hle q hq
  omega

end Sys2Proof.Machine

end

section

/-! The acceptance of FFT2 (O40): which slot fields its checks accept, and the plan they answer (43_frequency.md
R200-R203, 60_exceptions.md R282, R283). -/

namespace Sys2Proof.Machine

-- As in Tests/Slice0: every thread that elaborates beside this one reserves a stack of its own.
set_option Elab.async false

/-! ### The working size (R201) -/

theorem nextPow2_eq_pow_clog (n : Nat) : nextPow2 n = 2 ^ Nat.clog 2 n := by
  unfold nextPow2
  split
  · next h => rw [Nat.clog_of_right_le_one h, pow_zero]
  · next h =>
    have hupper : Nat.clog 2 n ≤ (n - 1).log2 + 1 := Nat.clog_le_of_le_pow (by
      have := Nat.lt_log2_self (n := n - 1)
      omega)
    have hlower : (n - 1).log2 < Nat.clog 2 n := (Nat.log2_lt (by omega)).mpr (by
      have := Nat.le_pow_clog Nat.one_lt_two n
      omega)
    rw [le_antisymm hupper hlower]

/-- `nextPow2 n` is the least power of two that is not below `n`. -/
theorem nextPow2_spec (n : Nat) :
    (∃ e, nextPow2 n = 2 ^ e) ∧ n ≤ nextPow2 n ∧ ∀ e, n ≤ 2 ^ e → nextPow2 n ≤ 2 ^ e := by
  rw [nextPow2_eq_pow_clog]
  exact ⟨⟨_, rfl⟩, Nat.le_pow_clog Nat.one_lt_two n,
    fun e h => Nat.pow_le_pow_right Nat.two_pos (Nat.clog_le_of_le_pow h)⟩

/-- A working side W' or H' of a source side of `n` pixels. -/
def workSide (pow2 : Bool) (n : Nat) : Nat := if pow2 then nextPow2 n else n

/-! ### Slot fields -/

/-- An optional source field that is accepted: NULL, or a valid slot (R282 group 2). -/
def SourceOk (s : State) (f : SlotArg) : Prop :=
  f = .null ∨ ∃ i : SlotNo, f = .slot i ∧ (s.slot i).valid .default = true

theorem sourceOpt_of_ok {s : State} {f : SlotArg} (h : SourceOk s f) : s.sourceOpt f = .ok (argSlot .default f) := by
  rcases h with rfl | ⟨i, rfl, hv⟩
  · rfl
  · simp [State.sourceOpt, State.validSlot, argSlot, hv, Except.map]

theorem sourceOk_of_sourceOpt {s : State} {f : SlotArg} {m : Option SlotNo} (h : s.sourceOpt f = .ok m) :
    SourceOk s f := by
  cases f with
  | null => exact .inl rfl
  | slot n =>
    cases hv : s.validSlot n with
    | error e => simp [State.sourceOpt, hv, Except.map] at h
    | ok a =>
      obtain ⟨rfl, hvalid⟩ := validSlot_ok hv
      exact .inr ⟨a, rfl, hvalid⟩

theorem destOpt_eq_ok {f : SlotArg} {c : Option SlotNo} :
    destOpt .default f = .ok c ↔ ¬ IsBadSlot f ∧ argSlot .default f = c := by
  cases f with
  | null => simp [destOpt, argSlot, IsBadSlot]
  | slot n =>
    have hbad : IsBadSlot (.slot n) ↔ ¬ n < Config.default.nslot := by simp [IsBadSlot]
    by_cases h : n < Config.default.nslot
    · simp [destOpt, argSlot, slotRef, hbad, h]
    · simp [destOpt, argSlot, slotRef, hbad, h]

/-- A field that is accepted and names no slot is NULL. -/
theorem SourceOk.argSlot_eq_none {s : State} {f : SlotArg} (h : SourceOk s f) :
    argSlot .default f = none ↔ f = .null := by
  rcases h with rfl | ⟨i, rfl, -⟩
  · simp [argSlot]
  · simp [argSlot]

/-- The main source (R201) is the slot of SA, else that of SB. -/
theorem argSlot_main {s : State} {sa : SlotArg} (ha : SourceOk s sa) (sb : SlotArg) :
    argSlot .default (if sa = .null then sb else sa) = (argSlot .default sa).or (argSlot .default sb) := by
  rcases ha with rfl | ⟨i, rfl, -⟩
  · rfl
  · simp [argSlot]

theorem targetsDiffer_iff {a b : Option SlotNo} : targetsDiffer a b = true ↔ ¬ ∃ i, a = some i ∧ b = some i := by
  cases a with
  | none => simp [targetsDiffer]
  | some i =>
    cases b with
    | none => simp [targetsDiffer]
    | some j => simp [targetsDiffer, @eq_comm _ j i]

/-! ### The plan -/

/-- Two given sources agree in size (R282 group 4). -/
def SizesAgree (s : State) (a b : Option SlotNo) : Prop :=
  ∀ i j, a = some i → b = some j → (s.slot i).w = (s.slot j).w ∧ (s.slot i).h = (s.slot j).h

/-- The working size is within the limits of an image (R201, R283). -/
def WorkFits (w h : Nat) : Prop := w ≤ 65535 ∧ h ≤ 65535 ∧ w * h ≤ 2 ^ 24

/-- Checks in a row answer a value exactly where each of them passes. -/
theorem guards_eq_ok {ε α : Type} {a b c : Bool} {e₁ e₂ e₃ : ε} {p p' : α} :
    (if !a then Except.error e₁ else if !b then .error e₂ else if c then .ok p' else .error e₃) = .ok p ↔
      a = true ∧ b = true ∧ c = true ∧ p = p' := by
  cases a
  · simp
  · cases b
    · simp
    · cases c
      · simp
      · simp [eq_comm]

/-- What FFT2's checks accept, and the plan they answer. -/
theorem fftPlan_eq_ok {s : State} {sa sb sc sd : SlotArg} {pow2 : Bool} {p : FftPlan .default} :
    s.fftPlan sa sb sc sd pow2 = .ok p ↔
      (SourceOk s sa ∧ SourceOk s sb ∧ ¬ IsBadSlot sc ∧ ¬ IsBadSlot sd) ∧
      SizesAgree s (argSlot .default sa) (argSlot .default sb) ∧
      (¬ ∃ i, destArg .default sc sa = some i ∧ destArg .default sd sb = some i) ∧
      ∃ m, (argSlot .default sa).or (argSlot .default sb) = some m ∧
        WorkFits (workSide pow2 (s.slot m).width) (workSide pow2 (s.slot m).height) ∧
        p = ⟨argSlot .default sa, argSlot .default sb, destArg .default sc sa, destArg .default sd sb,
          workSide pow2 (s.slot m).width, workSide pow2 (s.slot m).height⟩ := by
  by_cases hfields : SourceOk s sa ∧ SourceOk s sb ∧ ¬ IsBadSlot sc ∧ ¬ IsBadSlot sd
  · obtain ⟨ha, hb, hc, hd⟩ := hfields
    have hsc := destOpt_eq_ok.mpr ⟨hc, rfl⟩
    have hsd := destOpt_eq_ok.mpr ⟨hd, rfl⟩
    unfold State.fftPlan
    rw [sourceOpt_of_ok ha, sourceOpt_of_ok hb, hsc, hsd]
    dsimp only
    rw [or_eq_destArg hsc rfl, or_eq_destArg hsd rfl, ← targetsDiffer_iff]
    cases hm : (argSlot .default sa).or (argSlot .default sb) with
    | none => simp
    | some m =>
      have hfits : (decide (workSide pow2 (s.slot m).width ≤ 65535) &&
          decide (workSide pow2 (s.slot m).height ≤ 65535) &&
          decide (workSide pow2 (s.slot m).width * workSide pow2 (s.slot m).height ≤ 2 ^ 24)) = true ↔
          WorkFits (workSide pow2 (s.slot m).width) (workSide pow2 (s.slot m).height) := by
        simp [WorkFits, and_assoc]
      rw [and_iff_right (by exact ⟨ha, hb, hc, hd⟩)]
      simp only [Option.some.injEq, exists_eq_left']
      refine guards_eq_ok.trans (and_congr ?_ (and_congr Iff.rfl (and_congr hfits Iff.rfl)))
      cases argSlot .default sa with
      | none => simp [SizesAgree]
      | some i =>
        cases argSlot .default sb with
        | none => simp [SizesAgree]
        | some j => simp [SizesAgree]
  · refine ⟨fun h => absurd ?_ hfields, fun h => absurd h.1 hfields⟩
    unfold State.fftPlan at h
    split at h
    · next ha hb hc hd =>
      exact ⟨sourceOk_of_sourceOpt ha, sourceOk_of_sourceOpt hb, (destOpt_eq_ok.mp hc).1, (destOpt_eq_ok.mp hd).1⟩
    · cases h

/-- FFT2 is accepted exactly where each check passes, the size check being said of every slot that is the main
source. -/
theorem exists_fftPlan_iff {s : State} {sa sb sc sd : SlotArg} {pow2 : Bool} :
    (∃ p, s.fftPlan sa sb sc sd pow2 = .ok p) ↔
      (SourceOk s sa ∧ SourceOk s sb ∧ ¬ IsBadSlot sc ∧ ¬ IsBadSlot sd ∧ ¬ (sa = .null ∧ sb = .null)) ∧
      SizesAgree s (argSlot .default sa) (argSlot .default sb) ∧
      (¬ ∃ i, destArg .default sc sa = some i ∧ destArg .default sd sb = some i) ∧
      ∀ m, argSlot .default (if sa = .null then sb else sa) = some m →
        WorkFits (workSide pow2 (s.slot m).width) (workSide pow2 (s.slot m).height) := by
  constructor
  · rintro ⟨p, hp⟩
    obtain ⟨⟨ha, hb, hc, hd⟩, hsizes, htargets, m, hm, hfits, -⟩ := fftPlan_eq_ok.mp hp
    refine ⟨⟨ha, hb, hc, hd, ?_⟩, hsizes, htargets, fun n hn => ?_⟩
    · rintro ⟨rfl, rfl⟩
      cases hm
    · rw [argSlot_main ha, hm] at hn
      cases hn
      exact hfits
  · rintro ⟨⟨ha, hb, hc, hd, hsome⟩, hsizes, htargets, hfits⟩
    simp only [argSlot_main ha] at hfits
    cases hm : (argSlot .default sa).or (argSlot .default sb) with
    | none =>
      obtain ⟨hna, hnb⟩ := Option.or_eq_none_iff.mp hm
      exact absurd ⟨ha.argSlot_eq_none.mp hna, hb.argSlot_eq_none.mp hnb⟩ hsome
    | some m =>
      exact ⟨_, fftPlan_eq_ok.mpr ⟨⟨ha, hb, hc, hd⟩, hsizes, htargets, m, hm, hfits m hm, rfl⟩⟩

/-- Settles O40: the acceptance by `exists_fftPlan_iff`, the plan by `fftPlan_eq_ok`, the working size by
`nextPow2_spec`. -/
theorem fft2PlansItsTargets : Obligations.Fft2PlansItsTargets := by
  intro s sa sb sc sd pow2 good buffers sizes targets main fits
  constructor
  · have haccepted := exists_fftPlan_iff (s := s) (sa := sa) (sb := sb) (sc := sc) (sd := sd) (pow2 := pow2)
    simp only [SizesAgree, argSlot_eq_some, destArg_eq_some] at haccepted
    exact haccepted
  · intro p hp
    obtain ⟨⟨ha, -⟩, -, htargets, m, hm, -, rfl⟩ := fftPlan_eq_ok.mp hp
    refine ⟨fun _ => argSlot_eq_some, fun _ => argSlot_eq_some, fun _ => destArg_eq_some, fun _ => destArg_eq_some,
      fun i hR hI => htargets ⟨i, hR, hI⟩, m, argSlot_eq_some.mp ((argSlot_main ha sb).trans hm), ?_, ?_⟩
    · rintro rfl
      exact ⟨rfl, rfl⟩
    · rintro rfl
      obtain ⟨hwpow, hwle, hwleast⟩ := nextPow2_spec (s.slot m).width
      obtain ⟨hhpow, hhle, hhleast⟩ := nextPow2_spec (s.slot m).height
      exact ⟨hwpow, hwle, hwleast, hhpow, hhle, hhleast⟩

end Sys2Proof.Machine

end

section

/-! FFT2's targets (O39): the gray grid it reads (43_frequency.md R202), its output scale and forms (R207-R209), and the
FRESH_GRAY8 images it leaves (40_common.md R130). -/

namespace Sys2Proof.Machine

-- As in Tests/Slice0: every thread that elaborates beside this one reserves a stack of its own.
set_option Elab.async false

/-! ### FRESH_GRAY8 images -/

/-- A size that fits SDIM's 16-bit fields and values that fit a byte make `freshGray8` the image of R130. -/
theorem isFreshGray8_freshGray8 (d : Slot) {w h : Nat} {f : Nat → Nat → Nat} (hw : w ≤ 65535) (hh : h ≤ 65535)
    (hf : ∀ x y, f x y ≤ 255) : IsFreshGray8 d (freshGray8 d w h f) w h f where
  descriptor := {
    width := (BitVec.toNat_ofNat w 16).trans (Nat.mod_eq_of_lt (by omega))
    height := (BitVec.toNat_ofNat h 16).trans (Nat.mod_eq_of_lt (by omega))
    depth := rfl
    paln := rfl
    alpha := rfl
    selv := rfl
    sbox0 := (rfl : (0#16 ++ 0#16 : Word) = 0#32)
    sbox1 := (rfl : (0#16 ++ 0#16 : Word) = 0#32)
    alphaPlane := fun _ => rfl
    selPlane := fun _ => rfl }
  palette := fun i hi => (palEntry_freshGray8 d w h f i).trans (if_pos hi)
  pixels := fun x y hx hy => by
    have hlt : y * w + x < w * h := by nlinarith
    have hmod : (y * w + x) % w = x := by rw [Nat.mul_comm, Nat.mul_add_mod, Nat.mod_eq_of_lt hx]
    have hdiv : (y * w + x) / w = y := by
      rw [Nat.mul_comm, Nat.mul_add_div (by omega), Nat.div_eq_of_lt hx, Nat.add_zero]
    rw [pixByte_freshGray8, if_pos hlt, hmod, hdiv, toNat_ofNat_byte (hf x y)]
  beyond := fun o ho => (pixByte_freshGray8 d w h f o).trans (if_neg (by omega))

@[simp] theorem slot_writeTarget_same (s : State) (i : SlotNo) (w h : Nat) (f : Nat → Nat → Nat) :
    (s.writeTarget (some i) w h f).slot i = freshGray8 (s.slot i) w h f :=
  State.slot_withSlot_same s i _

/-! ### The outputs fit a byte (R208, R209) -/

theorem realOut_le (mag : Bool) (nn : F64) (v : Cx) : realOut .default mag nn v ≤ 255 := by
  cases mag <;> exact clampTrunc_le _

theorem imagOut_le (mag : Bool) (nn : F64) (v : Cx) : imagOut .default mag nn v ≤ 255 := by
  cases mag <;> exact clampTrunc_le _

/-! ### The grid (R201, R202) -/

/-- The part of the grid that a source slot gives, in the terms of Safety: the gray value, with POW2 that of the nearest
pixel, less 128. -/
def grayPart (s : State) (pow2 : Bool) (w h : Nat) (src : Option SlotNo) (x y : Nat) : F64 :=
  match src with
  | none => F64.zero
  | some a =>
    let img := s.slot a
    let g := if pow2 then grayOf img (x * img.width / w) (y * img.height / h) else grayOf img x y
    F64.ofInt ((g : Int) - 128)

theorem gridPart_eq_grayPart (s : State) (pow2 : Bool) (w h : Nat) (src : Option SlotNo) (x y : Nat) :
    gridPart .default (src.map s.slot) pow2 w h x y = grayPart s pow2 w h src x y := by
  cases src with
  | none => rfl
  | some a =>
    have hgray : (s.slot a).grayvAs (s.slot a).cls = grayOf (s.slot a) := funext₂ (grayv_eq_grayOf _)
    simp only [gridPart, Option.map_some, hgray]
    rfl

theorem planGrid_eq_grayPart (s : State) (p : FftPlan .default) (pow2 : Bool) : s.planGrid p pow2 =
    fun x y => ⟨grayPart s pow2 p.w p.h p.srcR x y, grayPart s pow2 p.w p.h p.srcI x y⟩ :=
  funext₂ fun _ _ => congrArg₂ Cx.mk (gridPart_eq_grayPart ..) (gridPart_eq_grayPart ..)

/-! ### The completion -/

/-- The working size of an accepted plan fits SDIM, and its targets are not one slot (R201, R203). -/
theorem fftPlan_targets {s : State} {sa sb sc sd : SlotArg} {pow2 : Bool} {p : FftPlan .default}
    (hp : s.fftPlan sa sb sc sd pow2 = .ok p) : p.w ≤ 65535 ∧ p.h ≤ 65535 ∧ ∀ i, p.tR = some i → p.tI ≠ some i := by
  obtain ⟨-, -, htargets, m, -, ⟨hw, hh, -⟩, rfl⟩ := fftPlan_eq_ok.mp hp
  exact ⟨hw, hh, fun i hR hI => htargets ⟨i, hR, hI⟩⟩

/-- A command without poll points that runs to its end succeeds, and changes nothing but what its body publishes. -/
theorem succeeded_of_publishes {i : Instr} {s u : State} (h : Publishes i s u) (hi : isThreshold i = false) :
    Succeeded s (u.complete .ok false) ∧ (u.complete .ok false).result = s.result := by
  obtain ⟨slots, result, rfl, hresult⟩ := h
  exact ⟨⟨⟨rfl, rfl, rfl, rfl, fun _ => rfl, rfl, rfl, rfl⟩, rfl, rfl, rfl, rfl, rfl⟩, hresult hi⟩

/-- FFT2 with an accepted plan and no host in its way: every target is a FRESH_GRAY8 image of the outputs `realOut` and
`imagOut` of the transformed grid, and nothing else changes. -/
theorem exec_fft2_done {s : State} {sa sb sc sd : SlotArg} {inv pow2 mag : Bool} {p : FftPlan .default}
    (hp : s.fftPlan sa sb sc sd pow2 = .ok p) (hq : s.quiet 0) :
    let grid := fftGrid .default inv p.w p.h (s.planGrid p pow2)
    let nn := outputScale inv mag p.w p.h
    ∃ t, exec (.fft2 sa sb sc sd inv pow2 mag) s = .next t ∧ Succeeded s t ∧ t.result = s.result ∧
      OthersKept s t (p.tR.toList ++ p.tI.toList) ∧
      (∀ r, p.tR = some r →
        IsFreshGray8 (s.slot r) (t.slot r) p.w p.h fun x y => realOut .default mag nn (gridAt grid x y)) ∧
      (∀ m, p.tI = some m →
        IsFreshGray8 (s.slot m) (t.slot m) p.w p.h fun x y => imagOut .default mag nn (gridAt grid x y)) := by
  intro grid nn
  let re := fun x y => realOut .default mag nn (gridAt grid x y)
  let im := fun x y => imagOut .default mag nn (gridAt grid x y)
  let u := (s.writeTarget p.tR p.w p.h re).writeTarget p.tI p.w p.h im
  have hexec : exec (.fft2 sa sb sc sd inv pow2 mag) s = .next (u.complete .ok false) := by
    simp only [exec, execFft2, hp]
    exact congrArg Host.Outcome.next (runBody_wholeBody hq)
  have hpublishes : Publishes (.fft2 sa sb sc sd inv pow2 mag) s u :=
    publishes_writeTarget (publishes_writeTarget (publishes_refl _ s) ..) ..
  obtain ⟨hsucceeded, hresult⟩ := succeeded_of_publishes hpublishes rfl
  obtain ⟨hw, hh, hdiffer⟩ := fftPlan_targets hp
  refine ⟨_, hexec, hsucceeded, hresult, fun i hi => ?others, fun r hr => ?real, fun m hm => ?imaginary⟩
  case others =>
    obtain ⟨hR, hI⟩ : p.tR ≠ some i ∧ p.tI ≠ some i := by simpa using hi
    exact (slot_writeTarget_other hI ..).trans (slot_writeTarget_other hR ..)
  case real =>
    have hslot : u.slot r = freshGray8 (s.slot r) p.w p.h re := by
      rw [slot_writeTarget_other (hdiffer r hr), hr, slot_writeTarget_same]
    rw [State.slot_complete, hslot]
    exact isFreshGray8_freshGray8 _ hw hh fun _ _ => realOut_le ..
  case imaginary =>
    have hslot : u.slot m = freshGray8 (s.slot m) p.w p.h im := by
      simp only [u, hm, slot_writeTarget_same]
      rw [slot_writeTarget_other fun hR => hdiffer m hR hm]
    rw [State.slot_complete, hslot]
    exact isFreshGray8_freshGray8 _ hw hh fun _ _ => imagOut_le ..

/-- Settles O39: `exec_fft2_done` over the grid, the scale and the outputs as the rules write them out. -/
theorem fft2WritesItsTargets : Obligations.Fft2WritesItsTargets := by
  intro s sa sb sc sd inv pow2 mag p hp hq part grid n0 n1 nn
  have hgrid : fftGrid .default inv p.w p.h (s.planGrid p pow2) = grid :=
    congrArg (fftGrid .default inv p.w p.h) (planGrid_eq_grayPart s p pow2)
  have hdone := exec_fft2_done (inv := inv) (mag := mag) hp hq
  rw [hgrid] at hdone
  exact hdone

end Sys2Proof.Machine

end

section

/-! FFT2's transform (O60): the bit-reversal permutation, the stages and the sums of 43_frequency.md R204-R206 against
`radix2` and the sums that the statement writes out. -/

namespace Sys2Proof.Machine

-- As in Tests/Slice0: every thread that elaborates beside this one reserves a stack of its own.
set_option Elab.async false

/-! ### Elements of a line -/

theorem cxAt_eq_getElem {a : List Cx} {i : Nat} (hi : i < a.length) : cxAt a i = a[i] := by simp [cxAt, hi]

theorem cxAt_set {a : List Cx} {i : Nat} (hi : i < a.length) (v : Cx) (p : Nat) :
    cxAt (a.set i v) p = if p = i then v else cxAt a p := by
  by_cases h : p = i
  · subst h
    simp [cxAt, hi]
  · simp [cxAt, List.getElem?_set_ne (Ne.symm h), h]

@[simp] theorem length_cxSwap (a : List Cx) (i j : Nat) : (cxSwap a i j).length = a.length := by simp [cxSwap]

theorem cxAt_cxSwap {a : List Cx} {i j : Nat} (hi : i < a.length) (hj : j < a.length) (p : Nat) :
    cxAt (cxSwap a i j) p = if p = j then cxAt a i else if p = i then cxAt a j else cxAt a p := by
  rw [cxSwap, cxAt_set (by rwa [List.length_set]), cxAt_set hi]

/-- Two lines of one length with the same elements are one. -/
theorem line_ext {a b : List Cx} (hlen : a.length = b.length) (h : ∀ i, i < b.length → cxAt a i = cxAt b i) : a = b :=
  List.ext_getElem hlen fun i ha hb => by rw [← cxAt_eq_getElem ha, ← cxAt_eq_getElem hb, h i hb]

/-! ### Bit reversal -/

/-- The number whose `m` bits are those of `i` in reverse order. -/
def bitRev : Nat → Nat → Nat
  | 0, _ => 0
  | m + 1, i => bitRev m (i / 2) + i % 2 * 2 ^ m

theorem bitRev_succ (m i : Nat) : bitRev (m + 1) i = bitRev m (i / 2) + i % 2 * 2 ^ m := rfl

theorem bitRev_lt (m i : Nat) : bitRev m i < 2 ^ m := by
  induction m generalizing i with
  | zero => exact Nat.one_pos
  | succ m ih =>
    have hrest := ih (i / 2)
    rcases Nat.mod_two_eq_zero_or_one i with h | h
    all_goals
      rw [bitRev_succ, h, pow_succ]
      omega

@[simp] theorem bitRev_zero (m : Nat) : bitRev m 0 = 0 := by
  induction m with
  | zero => rfl
  | succ m ih => simp [bitRev_succ, ih]

theorem bitRev_double (m k : Nat) : bitRev (m + 1) (2 * k) = bitRev m k := by
  rw [bitRev_succ, Nat.mul_div_cancel_left k Nat.two_pos, Nat.mul_mod_right, Nat.zero_mul, Nat.add_zero]

theorem bitRev_double_add_one (m k : Nat) : bitRev (m + 1) (2 * k + 1) = bitRev m k + 2 ^ m := by
  have hbits : (2 * k + 1) / 2 = k ∧ (2 * k + 1) % 2 = 1 := by omega
  rw [bitRev_succ, hbits.1, hbits.2, Nat.one_mul]

/-- The top bit of a number is the lowest of its reversal. -/
theorem bitRev_add_top {m x b : Nat} (hx : x < 2 ^ m) (hb : b < 2) :
    bitRev (m + 1) (x + b * 2 ^ m) = 2 * bitRev m x + b := by
  induction m generalizing x with
  | zero =>
    obtain rfl : x = 0 := by simpa using hx
    simp [bitRev, Nat.mod_eq_of_lt hb]
  | succ m ih =>
    have hhalf : (x + b * 2 ^ (m + 1)) / 2 = x / 2 + b * 2 ^ m := by
      rw [pow_succ, ← Nat.mul_assoc]
      omega
    have hlow : (x + b * 2 ^ (m + 1)) % 2 = x % 2 := by
      rw [pow_succ, ← Nat.mul_assoc]
      omega
    rw [bitRev_succ, hhalf, hlow, ih (by rw [pow_succ] at hx; omega)]
    rw [bitRev_succ]
    ring

theorem bitRev_bitRev {m i : Nat} (hi : i < 2 ^ m) : bitRev m (bitRev m i) = i := by
  induction m generalizing i with
  | zero =>
    obtain rfl : i = 0 := by simpa using hi
    rfl
  | succ m ih =>
    rw [bitRev_succ m i, bitRev_add_top (bitRev_lt m _) (Nat.mod_lt _ Nat.two_pos), ih (by rw [pow_succ] at hi; omega)]
    omega

/-- The inner loop of R204 takes the reversal of one number to the reversal of the next. -/
theorem bitRevNext_bitRev {m i fuel : Nat} (hi : i + 1 < 2 ^ m) (hfuel : m ≤ fuel) :
    bitRevNext fuel (2 ^ m >>> 1) (bitRev m i) = bitRev m (i + 1) := by
  induction m generalizing i fuel with
  | zero => omega
  | succ m ih =>
    obtain ⟨fuel, rfl⟩ : ∃ f, fuel = f + 1 := ⟨fuel - 1, by omega⟩
    have hk : 2 ^ (m + 1) >>> 1 = 2 ^ m := by rw [Nat.shiftRight_one, pow_succ, Nat.mul_div_cancel _ Nat.two_pos]
    have hrest := bitRev_lt m (i / 2)
    rw [hk]
    rcases Nat.mod_two_eq_zero_or_one i with h | h
    · have hnext : (i + 1) / 2 = i / 2 ∧ (i + 1) % 2 = 1 := by omega
      simp only [bitRev_succ, h, hnext]
      rw [bitRevNext, if_neg (by omega)]
      ring
    · have hnext : (i + 1) / 2 = i / 2 + 1 ∧ (i + 1) % 2 = 0 := by omega
      simp only [bitRev_succ, h, hnext]
      rw [bitRevNext, if_pos (by omega), Nat.one_mul, Nat.add_sub_cancel, ih (by rw [pow_succ] at hi; omega) (by omega)]
      omega

/-! ### The bit-reversal permutation (R204) -/

theorem eq_bitRev_iff {m p t : Nat} (hp : p < 2 ^ m) (ht : t < 2 ^ m) : p = bitRev m t ↔ bitRev m p = t := by
  constructor
  · rintro rfl
    exact bitRev_bitRev ht
  · rintro rfl
    exact (bitRev_bitRev hp).symm

/-- One turn of the permutation's loop. -/
def bitReverseStep (n : Nat) (st : List Cx × Nat) (i : Nat) : List Cx × Nat :=
  (if i < st.2 then cxSwap st.1 i st.2 else st.1, bitRevNext n (n >>> 1) st.2)

theorem bitReverse_eq (a : List Cx) :
    bitReverse a = ((List.range (a.length - 1)).foldl (bitReverseStep a.length) (a, 0)).1 := rfl

/-- After `t` turns: the exchanges of the first `t` indices are done, and the loop holds the reversal of `t`. -/
structure PermutedUpTo (m : Nat) (a : List Cx) (t : Nat) (st : List Cx × Nat) : Prop where
  length : st.1.length = 2 ^ m
  next : st.2 = bitRev m t
  elem : ∀ p, p < 2 ^ m → cxAt st.1 p = if p < t ∨ bitRev m p < t then cxAt a (bitRev m p) else cxAt a p

theorem PermutedUpTo.step {m t : Nat} {a : List Cx} {st : List Cx × Nat} (h : PermutedUpTo m a t st)
    (ht : t + 1 < 2 ^ m) : PermutedUpTo m a (t + 1) (bitReverseStep (2 ^ m) st t) := by
  obtain ⟨b, j⟩ := st
  obtain ⟨hlen, rfl, helem⟩ := h
  dsimp only at hlen helem
  refine ⟨?_, bitRevNext_bitRev ht Nat.lt_two_pow_self.le, fun p hp => ?_⟩
  · rw [bitReverseStep, apply_ite List.length, length_cxSwap, ite_self, hlen]
  · have ht' : t < 2 ^ m := by omega
    have hr : bitRev m t < 2 ^ m := bitRev_lt m t
    have hback : bitRev m (bitRev m t) = t := bitRev_bitRev ht'
    have hpartner : p = bitRev m t ↔ bitRev m p = t := eq_bitRev_iff hp ht'
    by_cases hswap : t < bitRev m t
    · rw [bitReverseStep, if_pos hswap, cxAt_cxSwap (hlen ▸ ht') (hlen ▸ hr)]
      by_cases hpr : p = bitRev m t
      · rw [if_pos hpr, if_pos (by omega), helem t ht', if_neg (by omega), hpartner.mp hpr]
      · rw [if_neg hpr]
        by_cases hpt : p = t
        · rw [if_pos hpt, if_pos (by omega), helem _ hr, if_neg (by omega), hpt]
        · rw [if_neg hpt, helem p hp]
          exact if_congr (by omega) rfl rfl
    · rw [bitReverseStep, if_neg hswap, helem p hp]
      by_cases hfixed : p = t ∧ bitRev m p = p
      · rw [hfixed.2, ite_self, ite_self]
      · have hself : p = t → bitRev m p = bitRev m t := congrArg (bitRev m)
        exact if_congr (by omega) rfl rfl

theorem cxAt_bitReverse {m : Nat} {a : List Cx} (ha : a.length = 2 ^ m) :
    (bitReverse a).length = 2 ^ m ∧ ∀ p, p < 2 ^ m → cxAt (bitReverse a) p = cxAt a (bitRev m p) := by
  have hloop : ∀ t, t + 1 ≤ 2 ^ m → PermutedUpTo m a t ((List.range t).foldl (bitReverseStep (2 ^ m)) (a, 0)) := by
    intro t ht
    induction t with
    | zero => exact ⟨ha, (bitRev_zero m).symm, fun p _ => by simp⟩
    | succ t ih =>
      rw [List.range_succ, List.foldl_append]
      exact (ih (by omega)).step ht
  have hpos : 0 < 2 ^ m := Nat.two_pow_pos m
  obtain ⟨hlen, -, helem⟩ := hloop (2 ^ m - 1) (by omega)
  rw [bitReverse_eq, ha]
  refine ⟨hlen, fun p hp => ?_⟩
  have hrev := bitRev_lt m p
  rw [helem p hp]
  split
  · rfl
  · next h => rw [show bitRev m p = p by omega]

/-! ### One stage (R204) -/

/-- The sum of two samples. -/
def cxAdd (p q : Cx) : Cx := ⟨F64.add p.re q.re, F64.add p.im q.im⟩

/-- The difference of two samples. -/
def cxSub (p q : Cx) : Cx := ⟨F64.sub p.re q.re, F64.sub p.im q.im⟩

section

variable {u : Cx} {l1 i : Nat} {a : List Cx}

@[simp] theorem length_butterfly : (butterfly u l1 a i).length = a.length := by simp [butterfly]

/-- A butterfly leaves the sum and the difference of its two elements, the upper one through the twiddle factor. -/
theorem cxAt_butterfly (hl : 0 < l1) (hi : i + l1 < a.length) :
    cxAt (butterfly u l1 a i) i = cxAdd (cxAt a i) (cxTwiddle u (cxAt a (i + l1))) ∧
      cxAt (butterfly u l1 a i) (i + l1) = cxSub (cxAt a i) (cxTwiddle u (cxAt a (i + l1))) := by
  have hi' : i < (a.set (i + l1) (cxSub (cxAt a i) (cxTwiddle u (cxAt a (i + l1))))).length := by
    rw [List.length_set]
    omega
  constructor
  · exact (cxAt_set hi' _ _).trans (if_pos rfl)
  · exact (cxAt_set hi' _ _).trans ((if_neg (by omega)).trans ((cxAt_set hi _ _).trans (if_pos rfl)))

theorem cxAt_butterfly_other (hi : i + l1 < a.length) {p : Nat} (h : p ≠ i) (h' : p ≠ i + l1) :
    cxAt (butterfly u l1 a i) p = cxAt a p := by
  rw [butterfly, cxAt_set (by rw [List.length_set]; omega), if_neg h, cxAt_set hi, if_neg h']

end

section

variable {ι : Type} {u : ι → Cx} {pos : ι → Nat} {l1 : Nat}

/-- Two butterflies touch different elements. -/
def Apart (l1 i j : Nat) : Prop := i ≠ j ∧ i ≠ j + l1 ∧ j ≠ i + l1

/-- Butterflies in a row that touch different elements each do what they do alone. -/
theorem foldl_butterfly (hl : 0 < l1) {steps : List ι} {a : List Cx}
    (hapart : steps.Pairwise fun x y => Apart l1 (pos x) (pos y)) (hbound : ∀ x ∈ steps, pos x + l1 < a.length) :
    let b := steps.foldl (fun b x => butterfly (u x) l1 b (pos x)) a
    b.length = a.length ∧
      (∀ p, (∀ x ∈ steps, p ≠ pos x ∧ p ≠ pos x + l1) → cxAt b p = cxAt a p) ∧
      ∀ x ∈ steps,
        cxAt b (pos x) = cxAdd (cxAt a (pos x)) (cxTwiddle (u x) (cxAt a (pos x + l1))) ∧
        cxAt b (pos x + l1) = cxSub (cxAt a (pos x)) (cxTwiddle (u x) (cxAt a (pos x + l1))) := by
  induction steps generalizing a with
  | nil => exact ⟨rfl, fun _ _ => rfl, fun _ h => absurd h List.not_mem_nil⟩
  | cons y ys ih =>
    obtain ⟨hy, hys⟩ := List.pairwise_cons.mp hapart
    have hby := hbound y List.mem_cons_self
    obtain ⟨hlen, hother, hat⟩ := ih (a := butterfly (u y) l1 a (pos y)) hys fun x hx => by
      rw [length_butterfly]
      exact hbound x (List.mem_cons_of_mem y hx)
    refine ⟨hlen.trans length_butterfly, fun p hp => ?_, fun x hx => ?_⟩
    · obtain ⟨hlow, hhigh⟩ := hp y List.mem_cons_self
      exact (hother p fun x hx => hp x (List.mem_cons_of_mem y hx)).trans (cxAt_butterfly_other hby hlow hhigh)
    · rcases List.mem_cons.mp hx with rfl | hx
      · obtain ⟨hsum, hdiff⟩ := cxAt_butterfly (u := u x) hl hby
        have hkept : ∀ p, p = pos x ∨ p = pos x + l1 → ∀ z ∈ ys, p ≠ pos z ∧ p ≠ pos z + l1 := fun p hp z hz => by
          obtain ⟨h1, h2, h3⟩ := hy z hz
          omega
        exact ⟨(hother _ (hkept _ (.inl rfl))).trans hsum, (hother _ (hkept _ (.inr rfl))).trans hdiff⟩
      · obtain ⟨h1, h2, h3⟩ := hy x hx
        have hlow : cxAt (butterfly (u y) l1 a (pos y)) (pos x) = cxAt a (pos x) :=
          cxAt_butterfly_other hby (by omega) (by omega)
        have hhigh : cxAt (butterfly (u y) l1 a (pos y)) (pos x + l1) = cxAt a (pos x + l1) :=
          cxAt_butterfly_other hby (by omega) (by omega)
        obtain ⟨hsum, hdiff⟩ := hat x hx
        exact ⟨hlow ▸ hhigh ▸ hsum, hlow ▸ hhigh ▸ hdiff⟩

end

/-- The butterflies of a stage's `blocks` blocks, for the first `n` twiddle factors, in the order in which R204 does
them. -/
def stageSteps (n blocks : Nat) : List (Nat × Nat) := List.range n ×ˢ List.range blocks

theorem stageSteps_succ (n blocks : Nat) :
    stageSteps (n + 1) blocks = stageSteps n blocks ++ (List.range blocks).map (Prod.mk n) := by
  simp [stageSteps, SProd.sprod, List.product, List.range_succ]

theorem mem_stageSteps {n blocks : Nat} {x : Nat × Nat} : x ∈ stageSteps n blocks ↔ x.1 < n ∧ x.2 < blocks := by
  rw [stageSteps, List.mem_product, List.mem_range, List.mem_range]

theorem nodup_stageSteps (n blocks : Nat) : (stageSteps n blocks).Nodup := List.nodup_range.product List.nodup_range

/-- The place of the butterfly `j` of a block. -/
def stagePos (l1 : Nat) (x : Nat × Nat) : Nat := x.1 + x.2 * (2 * l1)

theorem apart_stagePos {l1 : Nat} {x y : Nat × Nat} (hx : x.1 < l1) (hy : y.1 < l1) (h : x ≠ y) :
    Apart l1 (stagePos l1 x) (stagePos l1 y) := by
  obtain ⟨j, t⟩ := x
  obtain ⟨j', t'⟩ := y
  dsimp only at hx hy
  have hplace : ∀ {i i' : Nat}, i < 2 * l1 → i' < 2 * l1 → i + t * (2 * l1) = i' + t' * (2 * l1) → i = i' ∧ t = t' := by
    intro i i' hi hi' heq
    have hmod := congrArg (· % (2 * l1)) heq
    have hdiv := congrArg (· / (2 * l1)) heq
    have hpos : 0 < 2 * l1 := by omega
    simp only [Nat.add_mul_mod_self_right, Nat.mod_eq_of_lt hi, Nat.mod_eq_of_lt hi'] at hmod
    simp only [Nat.add_mul_div_right _ _ hpos, Nat.div_eq_of_lt hi, Nat.div_eq_of_lt hi', Nat.zero_add] at hdiv
    exact ⟨hmod, hdiv⟩
  unfold Apart stagePos
  dsimp only
  refine ⟨fun heq => h ?_, fun heq => ?_, fun heq => ?_⟩
  · obtain ⟨rfl, rfl⟩ := hplace (by omega) (by omega) heq
    rfl
  · have := hplace (i := j) (i' := j' + l1) (by omega) (by omega) (by omega)
    omega
  · have := hplace (i := j + l1) (i' := j') (by omega) (by omega) (by omega)
    omega

/-- One butterfly of stage `l`. -/
def stageButterfly (inv : Bool) (l : Nat) (b : List Cx) (x : Nat × Nat) : List Cx :=
  butterfly (twiddleAt inv l x.1) (2 ^ l) b (stagePos (2 ^ l) x)

/-- A stage is its butterflies in a row, with the twiddle factors of R204. -/
theorem fftStage_eq (inv : Bool) (l : Nat) (a : List Cx) : fftStage (stageStep inv l) (2 ^ l) a =
    (stageSteps (2 ^ l) (a.length / (2 * 2 ^ l))).foldl (stageButterfly inv l) a := by
  have hloop : ∀ n, (List.range n).foldl (fun (st : List Cx × Cx) j =>
      ((List.range (a.length / (2 * 2 ^ l))).foldl (fun b t => butterfly st.2 (2 ^ l) b (j + t * (2 * 2 ^ l))) st.1,
        twiddleNext st.2 (stageStep inv l))) (a, ⟨F64.one, F64.zero⟩) =
      ((stageSteps n (a.length / (2 * 2 ^ l))).foldl (stageButterfly inv l) a, twiddleAt inv l n) := by
    intro n
    induction n with
    | zero => rfl
    | succ n ih =>
      rw [List.range_succ, List.foldl_append, ih, stageSteps_succ, List.foldl_append, List.foldl_map]
      rfl
  exact congrArg Prod.fst (hloop (2 ^ l))

/-- What stage `l` leaves of a line of whole blocks. -/
theorem cxAt_fftStage (inv : Bool) {l blocks : Nat} {a : List Cx} (ha : a.length = blocks * (2 * 2 ^ l)) :
    (fftStage (stageStep inv l) (2 ^ l) a).length = a.length ∧
      ∀ t j, t < blocks → j < 2 ^ l →
        let p := cxAt a (j + t * (2 * 2 ^ l))
        let q := cxTwiddle (twiddleAt inv l j) (cxAt a (j + t * (2 * 2 ^ l) + 2 ^ l))
        cxAt (fftStage (stageStep inv l) (2 ^ l) a) (j + t * (2 * 2 ^ l)) = cxAdd p q ∧
          cxAt (fftStage (stageStep inv l) (2 ^ l) a) (j + t * (2 * 2 ^ l) + 2 ^ l) = cxSub p q := by
  have hpos : 0 < 2 ^ l := Nat.two_pow_pos l
  have hblocks : a.length / (2 * 2 ^ l) = blocks := by rw [ha, Nat.mul_div_cancel _ (by omega)]
  have hapart : (stageSteps (2 ^ l) blocks).Pairwise fun x y =>
      Apart (2 ^ l) (stagePos (2 ^ l) x) (stagePos (2 ^ l) y) :=
    (nodup_stageSteps _ _).imp_of_mem fun hx hy => apart_stagePos (mem_stageSteps.mp hx).1 (mem_stageSteps.mp hy).1
  have hbound : ∀ x ∈ stageSteps (2 ^ l) blocks, stagePos (2 ^ l) x + 2 ^ l < a.length := fun x hx => by
    obtain ⟨hj, ht⟩ := mem_stageSteps.mp hx
    have hend : (x.2 + 1) * (2 * 2 ^ l) ≤ blocks * (2 * 2 ^ l) := Nat.mul_le_mul_right _ ht
    rw [Nat.succ_mul] at hend
    unfold stagePos
    omega
  obtain ⟨hlen, -, hat⟩ := foldl_butterfly (u := fun x => twiddleAt inv l x.1) hpos hapart hbound
  rw [fftStage_eq, hblocks]
  exact ⟨hlen, fun t j ht hj => hat (j, t) (mem_stageSteps.mpr ⟨hj, ht⟩)⟩

/-! ### All stages (R204) -/

/-- The lower half of a transform: the sums. -/
theorem radix2_low (inv : Bool) {m j : Nat} (v : Nat → Cx) (hj : j < 2 ^ m) :
    radix2 inv (m + 1) v j = cxAdd (radix2 inv m (fun k => v (2 * k)) j)
      (cxTwiddle (twiddleAt inv m j) (radix2 inv m (fun k => v (2 * k + 1)) j)) := by
  simp only [radix2, Nat.mod_eq_of_lt hj, if_pos hj]
  rfl

/-- The upper half of a transform: the differences. -/
theorem radix2_high (inv : Bool) {m j : Nat} (v : Nat → Cx) (hj : j < 2 ^ m) :
    radix2 inv (m + 1) v (j + 2 ^ m) = cxSub (radix2 inv m (fun k => v (2 * k)) j)
      (cxTwiddle (twiddleAt inv m j) (radix2 inv m (fun k => v (2 * k + 1)) j)) := by
  have hnot : ¬ j + 2 ^ m < 2 ^ m := by omega
  simp only [radix2, Nat.add_mod_right, Nat.mod_eq_of_lt hj, if_neg hnot]
  rfl

/-- With `r` of the stages to come and `l` done, block `k` of the line holds the transform of the `2^l` samples whose
index ends in the reversed bits of `k`. -/
structure StagesDone (inv : Bool) (v : Nat → Cx) (r l : Nat) (b : List Cx) : Prop where
  length : b.length = 2 ^ (r + l)
  block : ∀ k j, k < 2 ^ r → j < 2 ^ l →
    cxAt b (j + k * 2 ^ l) = radix2 inv l (fun q => v (bitRev r k + q * 2 ^ r)) j

/-- A stage joins the transforms of two neighbouring blocks to that of their samples taken in turn. -/
theorem StagesDone.step_fftStage {inv : Bool} {v : Nat → Cx} {r l : Nat} {b : List Cx} (h : StagesDone inv v (r + 1) l b) :
    StagesDone inv v r (l + 1) (fftStage (stageStep inv l) (2 ^ l) b) := by
  have hspan : 2 ^ (l + 1) = 2 * 2 ^ l := by ring
  have hb : b.length = 2 ^ r * (2 * 2 ^ l) := h.length.trans (by ring)
  obtain ⟨hlen, hat⟩ := cxAt_fftStage inv hb
  refine ⟨hlen.trans (hb.trans (by ring)), fun k i hk hi => ?_⟩
  have heven : ∀ j, j < 2 ^ l → cxAt b (j + k * (2 * 2 ^ l)) =
      radix2 inv l (fun q => v (bitRev r k + 2 * q * 2 ^ r)) j := fun j hj => by
    have hblock := h.block (2 * k) j (by rw [pow_succ]; omega) hj
    have hplace : j + 2 * k * 2 ^ l = j + k * (2 * 2 ^ l) := by ring
    have hindex : ∀ q, bitRev r k + q * 2 ^ (r + 1) = bitRev r k + 2 * q * 2 ^ r := fun q => by ring
    rw [bitRev_double, hplace] at hblock
    simpa only [hindex] using hblock
  have hodd : ∀ j, j < 2 ^ l → cxAt b (j + k * (2 * 2 ^ l) + 2 ^ l) =
      radix2 inv l (fun q => v (bitRev r k + (2 * q + 1) * 2 ^ r)) j := fun j hj => by
    have hblock := h.block (2 * k + 1) j (by rw [pow_succ]; omega) hj
    have hplace : j + (2 * k + 1) * 2 ^ l = j + k * (2 * 2 ^ l) + 2 ^ l := by ring
    have hindex : ∀ q, bitRev r k + 2 ^ r + q * 2 ^ (r + 1) = bitRev r k + (2 * q + 1) * 2 ^ r := fun q => by ring
    rw [bitRev_double_add_one, hplace] at hblock
    simpa only [hindex] using hblock
  rw [hspan]
  by_cases hlow : i < 2 ^ l
  · rw [(hat k i hk hlow).1, radix2_low inv _ hlow, heven i hlow, hodd i hlow]
  · obtain ⟨j, rfl⟩ : ∃ j, i = j + 2 ^ l := ⟨i - 2 ^ l, by omega⟩
    have hj : j < 2 ^ l := by omega
    rw [Nat.add_right_comm, (hat k j hk hj).2, radix2_high inv _ hj, heven j hj, hodd j hj]

/-- The remaining stages finish the transform. -/
theorem StagesDone.finish_fftStages {inv : Bool} {v : Nat → Cx} {r l : Nat} {b : List Cx} (h : StagesDone inv v r l b) :
    StagesDone inv v 0 (l + r) (fftStages inv r (stageStep inv l) (2 ^ l) b) := by
  induction r generalizing l b with
  | zero => exact h
  | succ r ih =>
    have hspan : 2 ^ (l + 1) = 2 * 2 ^ l := by ring
    have hrest := ih h.step_fftStage
    rw [hspan, Nat.add_right_comm] at hrest
    exact hrest

/-- The stages of R204 on a bit-reversed line of `2^m` samples give the radix-2 transform. -/
theorem stagesDone_bitReverse (inv : Bool) {m : Nat} {a : List Cx} (ha : a.length = 2 ^ m) :
    StagesDone inv (cxAt a) 0 m (fftStages inv m ⟨F64.neg F64.one, F64.zero⟩ 1 (bitReverse a)) := by
  obtain ⟨hlen, hat⟩ := cxAt_bitReverse ha
  have hstart : StagesDone inv (cxAt a) m 0 (bitReverse a) := by
    refine ⟨hlen, fun k j hk hj => ?_⟩
    obtain rfl : j = 0 := by simpa using hj
    simpa [radix2] using hat k hk
  have hminus : F64.ofInt (-1) = F64.neg F64.one := by decide +kernel
  have hdone := hstart.finish_fftStages
  rw [stageStep, hminus, Nat.zero_add] at hdone
  exact hdone

/-! ### The normalization (R204, R205) -/

/-- A part of an output of a line of `n` samples: divided by `n` forward. -/
def normalized (inv : Bool) (n : Nat) (v : F64) : F64 := if inv then v else F64.div v (F64.ofNat n)

@[simp] theorem length_normalize (inv : Bool) (a : List Cx) : (normalize inv a).length = a.length := by
  cases inv <;> simp [normalize]

theorem cxAt_normalize (inv : Bool) {a : List Cx} {i : Nat} (hi : i < a.length) :
    cxAt (normalize inv a) i = ⟨normalized inv a.length (cxAt a i).re, normalized inv a.length (cxAt a i).im⟩ := by
  cases inv with
  | true => rfl
  | false => simp [normalize, normalized, cxAt, hi]

/-! ### DFT1 (R205) -/

theorem dftArg_eq (inv : Bool) (i n : Nat) : dftArg inv i n =
    F64.div (F64.mul (F64.mul (F64.mul (F64.ofInt (if inv then 1 else -1)) (F64.ofNat 2)) F64.pi) (F64.ofNat i))
      (F64.ofNat n) := by
  have hsign : (if inv then F64.one else F64.neg F64.one) = F64.ofInt (if inv then 1 else -1) := by
    cases inv <;> decide +kernel
  rw [dftArg, hsign]
  rfl

/-- The real and the imaginary sum of an output are taken apart. -/
theorem foldl_dftTerm (arg : F64) (terms : List (Cx × Nat)) (acc : Cx) :
    terms.foldl (dftTerm .default arg) acc =
      ⟨terms.foldl (fun x vk => F64.add x (F64.sub (F64.mul vk.1.re (F64.cos (F64.mul (F64.ofNat vk.2) arg)))
          (F64.mul vk.1.im (F64.sin (F64.mul (F64.ofNat vk.2) arg))))) acc.re,
        terms.foldl (fun y vk => F64.add y (F64.add (F64.mul vk.1.re (F64.sin (F64.mul (F64.ofNat vk.2) arg)))
          (F64.mul vk.1.im (F64.cos (F64.mul (F64.ofNat vk.2) arg))))) acc.im⟩ := by
  induction terms generalizing acc with
  | nil => rfl
  | cons vk terms ih => exact ih _

theorem zipIdx_eq_map_cxAt (a : List Cx) : a.zipIdx = (List.range a.length).map fun k => (cxAt a k, k) := by
  refine List.ext_getElem (by simp) fun k hk _ => ?_
  have hk' : k < a.length := by simpa using hk
  simp [cxAt, hk']

/-! ### T1 (R206) -/

theorem transform1_of_length_eq {inv : Bool} {m : Nat} {a : List Cx} (ha : a.length = 2 ^ m) :
    transform1 .default inv a =
      normalize inv (fftStages inv m ⟨F64.neg F64.one, F64.zero⟩ 1 (bitReverse a)) := by
  rw [transform1, ha, Nat.log2_two_pow, if_pos rfl, fft1, ha, Nat.log2_two_pow]

theorem transform1_of_length_ne {inv : Bool} {a : List Cx} (ha : ∀ m, a.length ≠ 2 ^ m) :
    transform1 .default inv a = dft1 .default inv a := if_neg (Ne.symm (ha _))

theorem length_transform1 (inv : Bool) (a : List Cx) : (transform1 .default inv a).length = a.length := by
  by_cases ha : ∃ m, a.length = 2 ^ m
  · obtain ⟨m, hm⟩ := ha
    rw [transform1_of_length_eq hm, length_normalize, (stagesDone_bitReverse inv hm).length, Nat.zero_add, hm]
  · rw [transform1_of_length_ne (not_exists.mp ha)]
    simp [dft1]

/-- FFT1 gives the radix-2 transform, divided by the length forward. -/
theorem cxAt_transform1_pow (inv : Bool) {m i : Nat} {a : List Cx} (ha : a.length = 2 ^ m) (hi : i < 2 ^ m) :
    cxAt (transform1 .default inv a) i = ⟨normalized inv (2 ^ m) (radix2 inv m (cxAt a) i).re,
      normalized inv (2 ^ m) (radix2 inv m (cxAt a) i).im⟩ := by
  obtain ⟨hlen, hblock⟩ := stagesDone_bitReverse inv ha
  rw [Nat.zero_add] at hlen
  have hat := hblock 0 i Nat.one_pos hi
  simp only [Nat.zero_mul, Nat.add_zero, bitRev_zero, pow_zero, Nat.mul_one, Nat.zero_add] at hat
  rw [transform1_of_length_eq ha, cxAt_normalize inv (hlen ▸ hi), hlen, hat]

/-- DFT1 gives the sums over the samples in order, divided by the length forward. -/
theorem cxAt_transform1_dft (inv : Bool) {i : Nat} {a : List Cx} (ha : ∀ m, a.length ≠ 2 ^ m) (hi : i < a.length) :
    let sums := ((List.range a.length).map fun k => (cxAt a k, k)).foldl
      (dftTerm .default (dftArg inv i a.length)) cxZero
    cxAt (transform1 .default inv a) i = ⟨normalized inv a.length sums.re, normalized inv a.length sums.im⟩ := by
  rw [transform1_of_length_ne ha, dft1, cxAt_normalize inv (by simpa using hi), ← zipIdx_eq_map_cxAt]
  simp [cxAt, hi]

/-- Point (x, y) of a transformed grid, rows first (R206). -/
theorem gridAt_fftGrid (inv : Bool) {w x : Nat} (h : Nat) (g : Nat → Nat → Cx) (hx : x < w) (y : Nat) :
    gridAt (fftGrid .default inv w h g) x y = cxAt (transform1 .default inv ((List.range h).map fun v =>
      cxAt (transform1 .default inv ((List.range w).map fun u => g u v)) x)) y := by
  simp [gridAt, fftGrid, hx, Function.comp_def]

/-- Settles O60: FFT1's stages by `stagesDone_bitReverse`, DFT1's sums by `foldl_dftTerm`; lines of one and of two
samples are the transforms of `2^0` and of `2^1`. -/
theorem fft2TransformsRowsThenColumns : Obligations.Fft2TransformsRowsThenColumns := by
  intro inv line scaled
  have hpow : ∀ (m : Nat) (a : List Cx), a.length = 2 ^ m → ∀ i, i < 2 ^ m → cxAt (line a) i =
      ⟨scaled (2 ^ m) (radix2 inv m (cxAt a) i).re, scaled (2 ^ m) (radix2 inv m (cxAt a) i).im⟩ :=
    fun m a ha i hi => cxAt_transform1_pow inv ha hi
  refine ⟨fun w h g x y hx _ => gridAt_fftGrid inv h g hx y, length_transform1 inv, fun a ha i hi => ?dft, hpow,
    fun p => ?one, fun p q => ?two⟩
  case dft =>
    intro n arg ca sa x2 y2
    have hsums := cxAt_transform1_dft inv ha hi
    rw [foldl_dftTerm, dftArg_eq, List.foldl_map, List.foldl_map] at hsums
    exact hsums
  case one =>
    refine line_ext (length_transform1 inv [p]) fun i hi => ?_
    obtain rfl : i = 0 := by simpa using hi
    exact hpow 0 [p] rfl 0 Nat.one_pos
  case two =>
    intro t1 t2
    refine line_ext (length_transform1 inv [p, q]) fun i hi => ?_
    have hcases : i = 0 ∨ i = 1 := by
      have : i < 2 := hi
      omega
    rcases hcases with rfl | rfl
    · exact hpow 1 [p, q] rfl 0 Nat.two_pos
    · exact hpow 1 [p, q] rfl 1 Nat.one_lt_two

end Sys2Proof.Machine

end

section

/-! The optimal-threshold function (O41): the histogram of 44_threshold.md R232 counts the levels of the box, R233 finds
the least and the greatest that occur, and the pass of R234 finds the four estimators' splits. -/

namespace Sys2Proof.Machine

-- As in Tests/Slice0: every thread that elaborates beside this one reserves a stack of its own.
set_option Elab.async false

/-! ### The counts of a histogram (R231, R232) -/

theorem mem_pixels {b : PixBox} {q : Nat × Nat} :
    q ∈ b.pixels ↔ (b.x0 ≤ q.1 ∧ q.1 < b.x1) ∧ b.y0 ≤ q.2 ∧ q.2 < b.y1 := by
  obtain ⟨x, y⟩ := q
  simp only [PixBox.pixels, List.mem_flatMap, List.mem_map, List.mem_range'_1, Prod.mk.injEq]
  constructor
  · rintro ⟨_, hy, _, hx, rfl, rfl⟩
    omega
  · rintro ⟨hx, hy⟩
    exact ⟨y, by omega, x, by omega, rfl, rfl⟩

theorem nodup_pixels (b : PixBox) : b.pixels.Nodup := by
  refine List.nodup_flatMap.mpr ⟨fun y _ => ?row, ?rows⟩
  case row => exact List.Nodup.map (fun _ _ h => congrArg Prod.fst h) List.nodup_range'
  case rows =>
    refine List.Pairwise.imp (fun {y y'} hne => ?_) (List.nodup_range' (s := b.y0) (n := b.y1 - b.y0))
    simp only [Function.onFun, List.Disjoint, List.mem_map]
    rintro _ ⟨_, _, rfl⟩ ⟨_, _, h⟩
    exact hne (congrArg Prod.snd h).symm

/-- Whether pixel `q` is present in the mask and has level `v`. -/
def hasLevel (g : Nat → Nat → Nat) (m : Nat → Nat → Bool) (v : Nat) (q : Nat × Nat) : Bool :=
  decide (m q.1 q.2 = true ∧ g q.1 q.2 = v)

/-- The level counts as the statements take them. -/
def counts (p : List Nat) (v : Nat) : Nat := p.getD v 0

section

variable {g : Nat → Nat → Nat} {m : Nat → Nat → Bool} {b : PixBox}

/-- A bin of a histogram that goes on from the bins `p`. -/
theorem counts_foldl (hg : ∀ x y, g x y < 256) (v : Nat) (l : List (Nat × Nat)) {p : List Nat} (hp : p.length = 256) :
    counts (l.foldl (fun p q => if m q.1 q.2 then p.modify (g q.1 q.2) (· + 1) else p) p) v =
      counts p v + l.countP (hasLevel g m v) := by
  induction l generalizing p with
  | nil => rfl
  | cons q l ih =>
    rw [List.foldl_cons, List.countP_cons]
    by_cases hm : m q.1 q.2 = true
    · have hbin : counts (p.modify (g q.1 q.2) (· + 1)) v = counts p v + if g q.1 q.2 = v then 1 else 0 := by
        have hlt : g q.1 q.2 < p.length := hp ▸ hg q.1 q.2
        unfold counts
        rw [List.getD_eq_getElem?_getD, List.getD_eq_getElem?_getD, List.getElem?_modify]
        split_ifs with hv
        · subst hv
          simp [hlt]
        · simp
      rw [if_pos hm, ih (by rw [List.length_modify, hp]), hbin]
      simp only [hasLevel, hm, true_and, decide_eq_true_eq]
      omega
    · rw [if_neg hm, ih hp]
      simp [hasLevel, hm]

/-- Bin `v` of the histogram counts the pixels of level `v` that are present in the mask (R232). -/
theorem counts_histogram (hg : ∀ x y, g x y < 256) : counts (histogram g m b) = levelCount g m b := by
  funext v
  have hempty : counts (List.replicate 256 0) v = 0 := by
    unfold counts
    rw [List.getD_eq_getElem?_getD, List.getElem?_replicate]
    split_ifs <;> rfl
  have hset : (b.pixels.filter (hasLevel g m v)).toFinset =
      (Finset.Ico b.x0 b.x1 ×ˢ Finset.Ico b.y0 b.y1).filter fun q => m q.1 q.2 = true ∧ g q.1 q.2 = v := by
    ext q
    simp only [List.mem_toFinset, List.mem_filter, mem_pixels, hasLevel, decide_eq_true_eq, Finset.mem_filter,
      Finset.mem_product, Finset.mem_Ico]
  unfold histogram levelCount
  rw [counts_foldl hg v _ List.length_replicate, hempty, Nat.zero_add, List.countP_eq_length_filter, ← hset,
    List.toFinset_card_of_nodup ((nodup_pixels b).filter _)]

theorem levelCount_ne_zero {v : Nat} : levelCount g m b v ≠ 0 ↔ Occurs g m b v := by
  simp only [levelCount, Finset.card_ne_zero, Finset.Nonempty, Finset.mem_filter, Finset.mem_product, Finset.mem_Ico,
    Prod.exists, Occurs]
  exact exists₂_congr fun x y => by tauto

theorem hasPixel_iff_occurs : HasPixel m b ↔ ∃ v, Occurs g m b v := by
  constructor
  · rintro ⟨x, y, h0, h1, h2, h3, hm⟩
    exact ⟨g x y, x, y, h0, h1, h2, h3, hm, rfl⟩
  · rintro ⟨-, x, y, h0, h1, h2, h3, hm, -⟩
    exact ⟨x, y, h0, h1, h2, h3, hm⟩

theorem Occurs.lt {v : Nat} (hg : ∀ x y, g x y < 256) (h : Occurs g m b v) : v < 256 := by
  obtain ⟨x, y, -, -, -, -, -, rfl⟩ := h
  exact hg x y

theorem HasPixel.nonempty (h : HasPixel m b) : b.x0 < b.x1 ∧ b.y0 < b.y1 := by
  obtain ⟨x, y, h0, h1, h2, h3, -⟩ := h
  omega

/-- Of the levels that occur there are a least and a greatest. -/
theorem exists_level_range (hg : ∀ x y, g x y < 256) (h : HasPixel m b) :
    ∃ lo hi, Occurs g m b lo ∧ Occurs g m b hi ∧ ∀ v, Occurs g m b v → lo ≤ v ∧ v ≤ hi := by
  have hfin : {v | Occurs g m b v}.Finite := (Set.finite_Iio 256).subset fun _ hv => hv.lt hg
  have hne : {v | Occurs g m b v}.Nonempty := hasPixel_iff_occurs.mp h
  obtain ⟨lo, hlo, hmin⟩ := Set.exists_min_image _ id hfin hne
  obtain ⟨hi, hhi, hmax⟩ := Set.exists_max_image _ id hfin hne
  exact ⟨lo, hi, hlo, hhi, fun v hv => ⟨hmin v hv, hmax v hv⟩⟩

end

/-! ### The limits (R233) -/

section

variable {p : List Nat}

theorem grayMin_succ (fuel i : Nat) :
    grayMin p (fuel + 1) i = if i < 255 ∧ counts p i = 0 then grayMin p fuel (i + 1) else i := rfl

theorem grayMax_succ (i : Nat) : grayMax p (i + 1) = if counts p (i + 1) = 0 then grayMax p i else i + 1 := rfl

/-- Upwards the search stops at the first populated bin, and at the latest at 255. -/
theorem grayMin_eq {fuel i lo : Nat} (hi : i ≤ lo) (hfuel : lo ≤ i + fuel) (hlo : lo ≤ 255)
    (hempty : ∀ v, i ≤ v → v < lo → counts p v = 0) (hstop : lo < 255 → counts p lo ≠ 0) :
    grayMin p fuel i = lo := by
  induction fuel generalizing i with
  | zero => exact Nat.le_antisymm hi hfuel
  | succ fuel ih =>
    rw [grayMin_succ]
    by_cases h : i = lo
    · subst h
      exact if_neg fun hc => hstop hc.1 hc.2
    · rw [if_pos ⟨by omega, hempty i le_rfl (by omega)⟩]
      exact ih (by omega) (by omega) fun v hv => hempty v (by omega)

/-- Downwards it stops at the first populated bin, and at the latest at 0. -/
theorem grayMax_eq {n hi : Nat} (hn : hi ≤ n) (hempty : ∀ v, hi < v → v ≤ n → counts p v = 0)
    (hstop : 0 < hi → counts p hi ≠ 0) : grayMax p n = hi := by
  induction n with
  | zero => exact (Nat.le_zero.mp hn).symm
  | succ n ih =>
    rw [grayMax_succ]
    by_cases h : hi = n + 1
    · subst h
      exact if_neg (hstop n.succ_pos)
    · rw [if_pos (hempty (n + 1) (by omega) le_rfl)]
      exact ih (by omega) fun v h0 h1 => hempty v h0 (by omega)

/-- A histogram without a populated bin has no threshold. -/
theorem otHistogram_empty {cfg : Config} (method : Nat) (h : ∀ v, counts p v = 0) :
    otHistogram cfg p method = none := by
  have hmin : grayMin p 255 0 = 255 := grayMin_eq (by omega) (by omega) le_rfl (fun v _ _ => h v) (by omega)
  have hmax : grayMax p 255 = 0 := grayMax_eq (by omega) (fun v _ _ => h v) (by omega)
  unfold otHistogram
  rw [hmin, hmax]
  rfl

/-- A histogram whose populated bins range from `lo` to `hi`. -/
theorem otHistogram_eq {cfg : Config} {lo hi : Nat} (method : Nat) (hhi : hi ≤ 255) (hlo0 : counts p lo ≠ 0)
    (hhi0 : counts p hi ≠ 0) (hrange : ∀ v, counts p v ≠ 0 → lo ≤ v ∧ v ≤ hi) :
    otHistogram cfg p method =
      if lo = hi then some (hi - 1) else some (otClamp lo hi (otSelect (otPass cfg p lo hi) method)) := by
  have hle : lo ≤ hi := (hrange lo hlo0).2
  have hmin : grayMin p 255 0 = lo :=
    grayMin_eq (by omega) (by omega) (by omega) (fun v _ hv => by_contra fun hc => by have := hrange v hc; omega)
      fun _ => hlo0
  have hmax : grayMax p 255 = hi :=
    grayMax_eq hhi (fun v hv _ => by_contra fun hc => by have := hrange v hc; omega) fun _ => hhi0
  unfold otHistogram
  rw [hmin, hmax]
  exact if_neg (by omega)

end

/-! ### The pass over the split levels (R234) -/

section

variable (p : List Nat)

/-- The sum of `term k` over the `n` levels from `lo` on. -/
def levelPrefix (term : Nat → F64) (lo n : Nat) : F64 :=
  (List.range' lo n).foldl (fun acc k => F64.add acc (term k)) F64.zero

theorem levelPrefix_succ (term : Nat → F64) (lo n : Nat) :
    levelPrefix term lo (n + 1) = F64.add (levelPrefix term lo n) (term (lo + n)) := by
  unfold levelPrefix
  rw [List.range'_1_concat, List.foldl_append, List.foldl_cons, List.foldl_nil]

theorem levelSum_eq_levelPrefix (term : Nat → F64) (lo n : Nat) :
    levelSum term lo (lo + n) = levelPrefix term lo (n + 1) := by
  unfold levelSum levelPrefix
  rw [show lo + n + 1 - lo = n + 1 by omega]

/-- A fold that carries a pair whose parts do not mix is the pair of the folds. -/
theorem foldl_pair {α β γ : Type} (f : α → γ → α) (h : β → γ → β) (l : List γ) (a : α) (c : β) :
    l.foldl (fun t i => (f t.1 i, h t.2 i)) (a, c) = (l.foldl f a, l.foldl h c) := by
  induction l generalizing a c with
  | nil => rfl
  | cons i l ih => exact ih (f a i) (h c i)

theorem totals_eq (lo hi : Nat) : totals p lo hi = (levelSum (fun k => F64.ofNat (counts p k)) lo hi,
    levelSum (firstMoment (counts p)) lo hi, levelSum (secondMoment (counts p)) lo hi) := by
  unfold levelSum
  rw [← foldl_pair, ← foldl_pair]
  rfl

/-- The populated levels are those that occur, with their counts. -/
theorem populated_eq_map (lo hi : Nat) :
    populated p lo hi = (occurring (counts p) lo hi).map fun k => (k, F64.ofNat (counts p k)) := by
  have hcounts : populated p lo hi = (List.range' lo (hi + 1 - lo)).filterMap fun k =>
      if counts p k = 0 then none else some (k, F64.ofNat (counts p k)) := rfl
  rw [hcounts, occurring, ← List.filterMap_eq_filter, List.map_filterMap]
  refine List.filterMap_congr fun k _ => ?_
  by_cases h : counts p k = 0
  · simp [h, Option.guard]
  · simp [h, Nat.pos_of_ne_zero h, Option.guard]

/-- The maximum entropy objective that the pass computes. -/
theorem entropyTerms_eq (lo hi i : Nat) (c : Split) :
    entropyTerms .default (entropyTerms .default F64.zero c.w1 (populated p lo i)) c.w2 (populated p (i + 1) hi) =
      entropyObjective (counts p) lo hi i c := by
  unfold entropyTerms
  rw [populated_eq_map, populated_eq_map, List.foldl_map, List.foldl_map]
  rfl

theorem potentialObjective_eq (lo hi i : Nat) :
    potentialObjective p lo hi i = potentialValue (counts p) lo hi i := by
  unfold potentialObjective
  simp only [populated_eq_map, List.foldl_map]
  rw [foldl_pair (fun v k => F64.sub v (squareTerm (F64.ofNat (counts p k)) (k - i)))
    (fun v k => F64.add v (squareTerm (F64.ofNat (counts p k)) (k - i)))]
  rfl

/-- One level of `bestSplit`: the best objective so far and its level, after level `i` with objective `v`. -/
def bestStep (v : F64) (evaluated : Bool) (i : Nat) (b : F64 × Option Nat) : F64 × Option Nat :=
  if evaluated && (F64.lt b.1 v || b.2.isNone) then (v, some i) else b

/-- `bestSplit` after `n` of its levels. -/
def bestPrefix (l : Nat → F64) (evaluated : Nat → Bool) (lo n : Nat) : F64 × Option Nat :=
  (List.range' lo n).foldl (fun b i => bestStep (l i) (evaluated i) i b) (F64.zero, none)

theorem bestPrefix_succ (l : Nat → F64) (evaluated : Nat → Bool) (lo n : Nat) :
    bestPrefix l evaluated lo (n + 1) =
      bestStep (l (lo + n)) (evaluated (lo + n)) (lo + n) (bestPrefix l evaluated lo n) := by
  unfold bestPrefix
  rw [List.range'_1_concat, List.foldl_append, List.foldl_cons, List.foldl_nil]

theorem bestSplit_eq_bestPrefix (l : Nat → F64) (evaluated : Nat → Bool) (lo hi : Nat) :
    bestSplit l evaluated lo hi = (bestPrefix l evaluated lo (hi - lo)).2 := rfl

/-- The pass's record of an estimator. -/
def Best.of (b : F64 × Option Nat) : Best := ⟨b.1, b.2⟩

theorem update_of (b : F64 × Option Nat) (v : F64) (i : Nat) :
    (Best.of b).update v i = Best.of (bestStep v true i b) := by
  unfold Best.update bestStep Best.of
  rw [Bool.true_and]
  split <;> rfl

/-- An objective that is evaluated only under a condition. -/
theorem bestStep_of_ite (b : F64 × Option Nat) (v : F64) (c : Bool) (i : Nat) :
    (if c then Best.of (bestStep v true i b) else Best.of b) = Best.of (bestStep v c i b) := by
  cases c <;> rfl

/-- The state of the pass after `n` split levels. -/
def passPrefix (lo hi n : Nat) : OTState :=
  let c := counts p
  let cls := classesAt c lo hi
  { w1 := levelPrefix (fun k => F64.ofNat (c k)) lo n
    m1 := levelPrefix (firstMoment c) lo n
    q1 := levelPrefix (secondMoment c) lo n
    otsu := Best.of (bestPrefix (fun i => otsuObjective (cls i)) (fun _ => true) lo n)
    kittler := Best.of (bestPrefix (fun i => kittlerObjective (cls i))
      (fun i => F64.lt F64.zero (cls i).s1 && F64.lt F64.zero (cls i).s2) lo n)
    entropy := Best.of (bestPrefix (fun i => entropyObjective c lo hi i (cls i)) (fun _ => true) lo n)
    potential := Best.of (bestPrefix (potentialValue c lo hi) (fun _ => true) lo n) }

/-- The pass takes the next split level: the running moments are the sums up to it. -/
theorem otCandidate_passPrefix (lo hi n : Nat) :
    otCandidate .default p lo hi (totals p lo hi) (passPrefix p lo hi n) (lo + n) = passPrefix p lo hi (n + 1) := by
  have hw : F64.add (passPrefix p lo hi n).w1 (binCount p (lo + n)) =
      levelSum (fun k => F64.ofNat (counts p k)) lo (lo + n) := by
    rw [levelSum_eq_levelPrefix, levelPrefix_succ]; rfl
  have hm : F64.add (passPrefix p lo hi n).m1 (moment (lo + n) (binCount p (lo + n))) =
      levelSum (firstMoment (counts p)) lo (lo + n) := by
    rw [levelSum_eq_levelPrefix, levelPrefix_succ]; rfl
  have hq : F64.add (passPrefix p lo hi n).q1 (moment ((lo + n) * (lo + n)) (binCount p (lo + n))) =
      levelSum (secondMoment (counts p)) lo (lo + n) := by
    rw [levelSum_eq_levelPrefix, levelPrefix_succ]; rfl
  have hstep : otCandidate .default p lo hi (totals p lo hi) (passPrefix p lo hi n) (lo + n) =
      let cls := classesAt (counts p) lo hi (lo + n)
      { w1 := levelSum (fun k => F64.ofNat (counts p k)) lo (lo + n)
        m1 := levelSum (firstMoment (counts p)) lo (lo + n)
        q1 := levelSum (secondMoment (counts p)) lo (lo + n)
        otsu := (passPrefix p lo hi n).otsu.update (otsuObjective cls) (lo + n)
        kittler := if F64.lt F64.zero cls.s1 && F64.lt F64.zero cls.s2 then
            (passPrefix p lo hi n).kittler.update (kittlerObjective cls) (lo + n) else (passPrefix p lo hi n).kittler
        entropy := (passPrefix p lo hi n).entropy.update (entropyObjective (counts p) lo hi (lo + n) cls) (lo + n)
        potential := (passPrefix p lo hi n).potential.update (potentialValue (counts p) lo hi (lo + n)) (lo + n) } := by
    dsimp only
    rw [← entropyTerms_eq, ← potentialObjective_eq]
    unfold otCandidate
    simp only [hw, hm, hq, totals_eq]
    rfl
  rw [hstep]
  simp only [passPrefix, update_of, bestStep_of_ite, bestPrefix_succ, levelSum_eq_levelPrefix]

theorem otPass_eq (lo hi : Nat) : otPass .default p lo hi = passPrefix p lo hi (hi - lo) := by
  unfold otPass
  dsimp only
  generalize hi - lo = n
  induction n with
  | zero => rfl
  | succ n ih =>
    rw [List.range'_1_concat, List.foldl_append, ih]
    exact otCandidate_passPrefix p lo hi n

/-- The pass finds the candidate of each method (R234, R235). -/
theorem otSelect_otPass {method : Nat} (h : method ≤ 4) (lo hi : Nat) :
    otSelect (otPass .default p lo hi) method = candidate (counts p) lo hi method := by
  rw [otPass_eq]
  obtain rfl | hpos := Nat.eq_zero_or_pos method
  · have hestimates : otSelect (passPrefix p lo hi (hi - lo)) 0 =
        let valid := ([1, 2, 3, 4].map (estimate (counts p) lo hi)).filterMap id
        if valid = [] then none else some (valid.sum / valid.length) := rfl
    rw [hestimates, List.filterMap_map, candidate]
    simp only [List.length_eq_zero_iff, if_true]
    rfl
  · interval_cases method <;> rfl

end

/-! ### OT (R233, R235) -/

/-- The final clamp takes the candidate where it lies strictly inside the range, and else the midpoint. -/
theorem otClamp_cases (lo hi : Nat) (c : Option Nat) :
    (∃ t, c = some t ∧ lo < t ∧ t < hi ∧ otClamp lo hi c = t) ∨
      ((∀ t, c = some t → t ≤ lo ∨ hi ≤ t) ∧ otClamp lo hi c = (lo + hi) / 2) := by
  cases c with
  | none => exact .inr ⟨nofun, rfl⟩
  | some t =>
    by_cases h : t ≤ lo ∨ hi ≤ t
    · exact .inr ⟨fun _ ht => Option.some.inj ht ▸ h, if_pos h⟩
    · exact .inl ⟨t, rfl, by omega, by omega, if_neg h⟩

section

variable {g : Nat → Nat → Nat} {m : Nat → Nat → Bool} {method : Nat} {b : PixBox}

/-- A box without a present pixel has no threshold. -/
theorem optimalThreshold_of_not_hasPixel {cfg : Config} (hg : ∀ x y, g x y < 256) (h : ¬ HasPixel m b) :
    optimalThreshold cfg g m method b = none := by
  unfold optimalThreshold
  split_ifs
  · refine otHistogram_empty method fun v => ?_
    rw [counts_histogram hg]
    exact not_not.mp fun hc => h (hasPixel_iff_occurs.mpr ⟨v, levelCount_ne_zero.mp hc⟩)
  · rfl

/-- OT of a box whose levels range from `lo` to `hi`. -/
theorem optimalThreshold_eq {lo hi : Nat} (hg : ∀ x y, g x y < 256) (hmethod : method ≤ 4) (hlo : Occurs g m b lo)
    (hhi : Occurs g m b hi) (hrange : ∀ v, Occurs g m b v → lo ≤ v ∧ v ≤ hi) :
    optimalThreshold .default g m method b = if lo = hi then some (hi - 1) else
      some (otClamp lo hi (candidate (levelCount g m b) lo hi method)) := by
  have hbox : b.x0 < b.x1 ∧ b.y0 < b.y1 := (hasPixel_iff_occurs.mpr ⟨lo, hlo⟩).nonempty
  have hcounts : counts (histogram g m b) = levelCount g m b := counts_histogram hg
  have hbin : ∀ v, counts (histogram g m b) v ≠ 0 ↔ Occurs g m b v := fun v => hcounts ▸ levelCount_ne_zero
  unfold optimalThreshold
  rw [if_pos hbox, otHistogram_eq method (Nat.le_of_lt_succ (hhi.lt hg)) ((hbin lo).mpr hlo) ((hbin hi).mpr hhi)
    fun v hv => hrange v ((hbin v).mp hv), otSelect_otPass _ hmethod, hcounts]

/-- OT fails exactly on a box without a present pixel, and a threshold is below 255. -/
theorem optimalThreshold_cases (hg : ∀ x y, g x y < 256) (hmethod : method ≤ 4) :
    (¬ HasPixel m b ∧ optimalThreshold .default g m method b = none) ∨
      HasPixel m b ∧ ∃ th, th ≤ 254 ∧ optimalThreshold .default g m method b = some th := by
  by_cases h : HasPixel m b
  · obtain ⟨lo, hi, hlo, hhi, hrange⟩ := exists_level_range hg h
    have hle : lo ≤ hi := (hrange lo hlo).2
    have hbyte : hi < 256 := hhi.lt hg
    refine .inr ⟨h, ?_⟩
    rw [optimalThreshold_eq hg hmethod hlo hhi hrange]
    split_ifs
    · exact ⟨hi - 1, by omega, rfl⟩
    · refine ⟨_, ?_, rfl⟩
      rcases otClamp_cases lo hi (candidate (levelCount g m b) lo hi method) with ⟨t, -, -, ht, h⟩ | ⟨-, h⟩ <;> omega
  · exact .inl ⟨h, optimalThreshold_of_not_hasPixel hg h⟩

end

/-- Settles O41: the range of the levels that occur by `optimalThreshold_eq`, the clamp by `otClamp_cases`. -/
theorem thresholdIsTheMethodsCandidate : Obligations.ThresholdIsTheMethodsCandidate := by
  intro g m method b hg hmethod
  constructor
  · rcases optimalThreshold_cases (m := m) (b := b) hg hmethod with ⟨hn, h⟩ | ⟨hp, th, -, h⟩ <;> rw [h]
    · exact ⟨fun _ => hn, fun _ => rfl⟩
    · exact ⟨nofun, fun hn => absurd hp hn⟩
  · intro lo hi hlo hhi hrange
    rw [optimalThreshold_eq hg hmethod hlo hhi hrange]
    refine ⟨fun h => if_pos h, fun h => ⟨_, if_neg h.ne, ?_⟩⟩
    rcases otClamp_cases lo hi (candidate (levelCount g m b) lo hi method) with ⟨t, hc, h0, h1, ht⟩ | ⟨hc, ht⟩
    · rw [ht]
      exact ⟨.inl ⟨h0, h1⟩, .inl ⟨t, hc, h0, h1, rfl⟩⟩
    · rw [ht]
      exact ⟨.inr rfl, .inr ⟨hc, rfl⟩⟩

end Sys2Proof.Machine

end

section

/-! The threshold commands (O42, O43, O44, O45): their checks, how each ends, and the FRESH_BW image (40_common.md R130)
that the two binarizing ones leave (44_threshold.md R236-R245). -/

namespace Sys2Proof.Machine

-- As in Tests/Slice0: every thread that elaborates beside this one reserves a stack of its own.
set_option Elab.async false

/-! ### Gray values, masks and FRESH_BW images -/

theorem grayRgb_le (c : Color) : grayRgb c ≤ 255 := by
  have hr := c.r.isLt
  have hg := c.g.isLt
  have hb := c.b.isLt
  rw [grayRgb, Nat.shiftRight_eq_div_pow]
  omega

/-- A gray value is a byte: a stored index, or a weighted colour (R128). -/
theorem grayOf_lt (t : Slot) (x y : Nat) : grayOf t x y < 256 := by
  refine Nat.lt_succ_of_le ?_
  rw [← grayv_eq_grayOf, Slot.grayv]
  unfold Slot.grayvAs
  split
  · exact lane_le t x y 0
  · exact grayRgb_le _

/-- The gray value of the snapshot that a command takes (R128). -/
theorem grayvAs_cls (t : Slot) : t.grayvAs t.cls = grayOf t := funext₂ (grayv_eq_grayOf t)

/-- A pixel is present in an optional mask whose index is not 0 there (44_threshold.md R232). -/
theorem maskAt_eq_true {s : State} {m : Option SlotNo} {x y : Nat} :
    s.maskAt m x y = true ↔ ∀ i, m = some i → (s.slot i).lane x y 0 ≠ 0 := by
  cases m with
  | none => exact ⟨fun _ => nofun, fun _ => rfl⟩
  | some i => simp [State.maskAt]

/-- A mask is an image of DEPTH 2 of its source's size (R138). -/
theorem maskFits_iff {m t : Slot} : maskFits m t = true ↔ m.cls = .gray8 ∧ m.w = t.w ∧ m.h = t.h := by
  simp only [maskFits, Bool.and_eq_true, beq_iff_eq, and_assoc]

theorem depth_of_cls_gray8 {t : Slot} (h : t.cls = .gray8) : t.depth = 2#2 := by
  unfold Slot.cls at h
  split_ifs at h
  assumption

/-- The lane of a pixel of DEPTH 2 is its stored index. -/
theorem lane_of_depth_two {t : Slot} (h : t.depth = 2#2) (x y : Nat) :
    t.lane x y 0 = (t.pixByte (y * t.width + x)).toNat := by
  simp [Slot.lane, Slot.bpb, h]

/-- Pixel (x, y) of rows of `w` pixels, and its number. -/
theorem pixel_number {w h x y : Nat} (hx : x < w) (hy : y < h) :
    y * w + x < w * h ∧ (y * w + x) % w = x ∧ (y * w + x) / w = y := by
  refine ⟨by nlinarith, ?_, ?_⟩
  · rw [Nat.mul_comm, Nat.mul_add_mod, Nat.mod_eq_of_lt hx]
  · rw [Nat.mul_comm, Nat.mul_add_div (by omega), Nat.div_eq_of_lt hx, Nat.add_zero]

/-- A size that fits SDIM's 16-bit fields makes `freshBw` the image of R130. -/
theorem isFreshBw_freshBw (d : Slot) {w h : Nat} {f : Nat → Nat → Bool} {fg : Nat → Nat → Prop} (hw : w ≤ 65535)
    (hh : h ≤ 65535) (hf : ∀ x y, x < w → y < h → (f x y = true ↔ fg x y)) : IsFreshBw d (freshBw d w h f) w h fg where
  descriptor := {
    width := (BitVec.toNat_ofNat w 16).trans (Nat.mod_eq_of_lt (by omega))
    height := (BitVec.toNat_ofNat h 16).trans (Nat.mod_eq_of_lt (by omega))
    depth := rfl
    paln := rfl
    alpha := rfl
    selv := rfl
    sbox0 := (rfl : (0#16 ++ 0#16 : Word) = 0#32)
    sbox1 := (rfl : (0#16 ++ 0#16 : Word) = 0#32)
    alphaPlane := fun _ => rfl
    selPlane := fun _ => rfl }
  black := palEntry_freshBw d w h f 0
  white := palEntry_freshBw d w h f 1
  palette := fun i hi => (palEntry_freshBw d w h f i).trans (if_neg (by omega))
  ones := fun x y hx hy hfg => by
    obtain ⟨hlt, hmod, hdiv⟩ := pixel_number hx hy
    rw [pixByte_freshBw, if_pos hlt, hmod, hdiv, if_pos ((hf x y hx hy).mpr hfg)]
    rfl
  zeros := fun x y hx hy hfg => by
    obtain ⟨hlt, hmod, hdiv⟩ := pixel_number hx hy
    rw [pixByte_freshBw, if_pos hlt, hmod, hdiv, if_neg fun h => hfg ((hf x y hx hy).mp h)]
    rfl
  beyond := fun o ho => (pixByte_freshBw d w h f o).trans (if_neg (by omega))

theorem width_le (t : Slot) : t.width ≤ 65535 := Nat.le_of_lt_succ t.w.isLt

theorem height_le (t : Slot) : t.height ≤ 65535 := Nat.le_of_lt_succ t.h.isLt

theorem size_pos_of_valid {t : Slot} (h : t.valid .default = true) : 0 < t.width ∧ 0 < t.height := by
  simp only [Slot.valid, Bool.and_eq_true, decide_eq_true_eq] at h
  omega

/-! ### The checks and the completions -/

section

variable {s : State} {a d : SlotNo} {m : Option SlotNo} {sb sc : SlotArg} {method : BitVec 3}

theorem source_of_valid (h : (s.slot a).valid .default = true) : s.source (.slot a) = .ok a := by
  simp [State.source, State.validSlot, h]

theorem requireMask_of_fits {t : Slot} (h : ∀ i, m = some i → maskFits (s.slot i) t = true) :
    s.requireMask m t = .ok () := by
  cases m with
  | none => rfl
  | some i => simp [State.requireMask, require, h i rfl]

/-- The checks of OPTTHRESH pass when each of them does. -/
theorem optCheck_of (hv : (s.slot a).valid .default = true) (hdepth : (s.slot a).depth = 2#2)
    (hsb : s.sourceOpt sb = .ok m) (hm : ∀ i, m = some i → maskFits (s.slot i) (s.slot a) = true)
    (hmethod : method.toNat ≤ 4) : s.optCheck (.slot a) sb method = .ok (a, m) := by
  simp [State.optCheck, source_of_valid hv, hsb, hdepth, requireMask_of_fits hm, hmethod]

/-- The checks of ADAPTHRESH pass when each of them does. -/
theorem adaptCheck_of {balance : Word} (hv : (s.slot a).valid .default = true) (hsb : s.sourceOpt sb = .ok m)
    (hd : dest a sc = .ok d) (hm : ∀ i, m = some i → maskFits (s.slot i) (s.slot a) = true)
    (hmethod : method.toNat ≤ 4) (hbalance : F64.ofF32 balance ≠ .nan) :
    s.adaptCheck (.slot a) sb sc method balance = .ok (a, m, d) := by
  have hnum : (F64.ofF32 balance).isNaN = false := by
    cases h : F64.ofF32 balance with
    | nan => exact absurd h hbalance
    | inf => rfl
    | fin => rfl
  simp [State.adaptCheck, source_of_valid hv, hsb, hd, requireMask_of_fits hm, hmethod, hnum]

/-- The checks of THRESHMASK pass when each of them does. -/
theorem maskCheck_of {k : SlotNo} (hv : (s.slot a).valid .default = true) (hk : (s.slot k).valid .default = true)
    (hfits : maskFits (s.slot k) (s.slot a) = true) (hd : dest a sc = .ok d) :
    s.maskCheck (.slot a) (.slot k) sc = .ok (a, k, d) := by
  simp [State.maskCheck, source_of_valid hv, source_of_valid hk, hd, hfits]

theorem keepsControl_failThreshold (s : State) (p : BitVec 8) :
    KeepsControl s (({ s with progress := p } : State).failThreshold .noThreshold) :=
  ⟨rfl, rfl, rfl, rfl, fun _ => rfl, rfl, rfl, rfl⟩

theorem completed_failThreshold (s : State) :
    Completed s (s.failThreshold .noThreshold) .noThreshold false s.progress :=
  ⟨keepsControl_failThreshold s s.progress, rfl, rfl, rfl, rfl, rfl⟩

/-- A completion that publishes nothing but RESULT. -/
theorem completed_result (s : State) (p : BitVec 8) (r : Word) :
    Completed s (({ s with progress := p, result := r } : State).complete .ok true) .ok true p :=
  ⟨⟨rfl, rfl, rfl, rfl, fun _ => rfl, rfl, rfl, rfl⟩, rfl, rfl, rfl, rfl, rfl⟩

/-- A successful completion that publishes slots and RESULT. -/
theorem succeeded_complete {i : Instr} {s u : State} (h : Publishes i s u) : Succeeded s (u.complete .ok false) := by
  obtain ⟨slots, result, rfl, -⟩ := h
  exact ⟨⟨rfl, rfl, rfl, rfl, fun _ => rfl, rfl, rfl, rfl⟩, rfl, rfl, rfl, rfl, rfl⟩

end

/-! ### THRESHMASK -/

/-- Settles O45: the snapshot's gray value by `grayvAs_cls`, the image by `isFreshBw_freshBw`. -/
theorem threshmaskBinarizes : Obligations.ThreshmaskBinarizes := by
  intro s a m d sc hv hm hfits hd hq
  obtain ⟨hgray, hw, -⟩ := maskFits_iff.mp hfits
  have hlane : ∀ x y, (s.slot m).lane x y 0 = ((s.slot m).pixByte (y * (s.slot m).width + x)).toNat :=
    lane_of_depth_two (depth_of_cls_gray8 hgray)
  let u := s.withSlot d (freshBw (s.slot d) (s.slot a).width (s.slot a).height fun x y =>
    decide ((s.slot m).lane x y 0 < grayOf (s.slot a) x y))
  have hexec : exec (.threshmask (.slot a) (.slot m) sc) s = .next (u.complete .ok false) := by
    simp only [exec, execThreshmask, maskCheck_of hv hm hfits hd, grayvAs_cls]
    exact congrArg Host.Outcome.next (runBody_wholeBody hq)
  obtain ⟨hsucceeded, hresult⟩ := succeeded_of_publishes
    (publishes_withSlot (publishes_refl (.threshmask (.slot a) (.slot m) sc) s) d _) rfl
  refine ⟨_, hexec, hsucceeded, hresult,
    fun j hj => State.slot_withSlot_other s (fun h => hj (List.mem_singleton.mpr h)) _, ?_⟩
  rw [State.slot_complete, State.slot_withSlot_same]
  exact isFreshBw_freshBw _ (width_le _) (height_le _) fun x y _ _ => by rw [decide_eq_true_eq, hlane]

/-! ### OPTTHRESH -/

section

variable {s : State} {a : SlotNo} {m : Option SlotNo} {sa sb : SlotArg} {method : BitVec 3} {box : Option BoxArg}

theorem exec_optthresh_of_none (hc : s.optCheck sa sb method = .ok (a, m))
    (hot : optimalThreshold .default (fun x y => (s.slot a).lane x y 0) (s.maskAt m) method.toNat
      (optBox box (s.slot a)) = none) :
    exec (.optthresh sa sb method box) s = .next (s.failThreshold .noThreshold) := by
  simp only [exec, execOptthresh, hc, hot]

theorem exec_optthresh_of_some {th : Nat} (hc : s.optCheck sa sb method = .ok (a, m))
    (hot : optimalThreshold .default (fun x y => (s.slot a).lane x y 0) (s.maskAt m) method.toNat
      (optBox box (s.slot a)) = some th) (hq : s.quiet 0) :
    exec (.optthresh sa sb method box) s =
      .next (({ s with result := BitVec.ofNat 32 th } : State).complete .ok false) := by
  simp only [exec, execOptthresh, hc, hot]
  exact congrArg Host.Outcome.next (runBody_wholeBody hq)

end

/-- Settles O42: the two outcomes of `optimalThreshold_cases`. -/
theorem optthreshReportsTheThreshold : Obligations.OptthreshReportsTheThreshold := by
  intro s a sb m method box hv hdepth hsb hm hmethod hq img region present any
  have hc := optCheck_of hv hdepth hsb hm hmethod
  have hregion : optBox box img = region := by cases box <;> rfl
  have hany : any ↔ HasPixel (s.maskAt m) region := by simp only [any, present, HasPixel, maskAt_eq_true]
  rw [hany, ← hregion]
  rcases optimalThreshold_cases (g := fun x y => img.lane x y 0) (m := s.maskAt m) (b := optBox box img)
    (fun x y => Nat.lt_succ_of_le (lane_le img x y 0)) hmethod with ⟨hnone, hot⟩ | ⟨hsome, th, hle, hot⟩
  · exact ⟨_, exec_optthresh_of_none hc hot, rfl, fun h => absurd h hnone, fun _ => ⟨completed_failThreshold s, rfl⟩⟩
  · have hpublishes := publishes_result (i := .optthresh (.slot a) sb method box) rfl s
    exact ⟨_, exec_optthresh_of_some hc hot hq, rfl,
      fun _ => ⟨succeeded_complete (hpublishes _), th, hle, rfl, hot⟩, fun h => absurd hsome h⟩

/-! ### ADAPTHRESH: its cells (R238-R241) -/

theorem cellSide_pos (boxSize : Word) : 0 < cellSide boxSize := by unfold cellSide; omega

theorem div_lt_cellCount {n side x : Nat} (hside : 0 < side) (hx : x < n) : x / side < cellCount n side := by
  calc x / side < (x + side) / side := by rw [Nat.add_div_right x hside]; exact Nat.lt_succ_self _
    _ ≤ cellCount n side := Nat.div_le_div_right (by omega)

/-- The cell in column `tx` and row `ty` has the number `tx + ty·mw` (R239). -/
theorem cellBox_number {side mw w h tx ty : Nat} (htx : tx < mw) : cellBox side mw w h (tx + ty * mw) =
    ⟨tx * side, ty * side, min (tx * side + side) w, min (ty * side + side) h⟩ := by
  have hmod : (tx + ty * mw) % mw = tx := by rw [Nat.add_mul_mod_self_right, Nat.mod_eq_of_lt htx]
  have hdiv : (tx + ty * mw) / mw = ty := by
    rw [Nat.add_mul_div_right _ _ (by omega), Nat.div_eq_of_lt htx, Nat.zero_add]
  simp only [cellBox, hmod, hdiv]

theorem number_lt {mw mh tx ty : Nat} (htx : tx < mw) (hty : ty < mh) : tx + ty * mw < mw * mh := by nlinarith

/-- The default RESAMPLE gives a pixel the value of its cell (R241). -/
theorem maskValue_default {cells : List Nat} {side mw mh x y : Nat} (hx : x / side < mw) (hy : y / side < mh) :
    maskValue .default cells side mw mh x y = cells.getD (x / side + y / side * mw) 0 := by
  have hnearest : maskValue .default cells side mw mh x y =
      cells.getD (x * mw / (mw * side) + y * mh / (mh * side) * mw) 0 := rfl
  rw [hnearest, Nat.mul_comm x mw, Nat.mul_comm y mh, Nat.mul_div_mul_left _ _ (Nat.zero_lt_of_lt hx),
    Nat.mul_div_mul_left _ _ (Nat.zero_lt_of_lt hy)]

/-! ### ADAPTHRESH: its body (R244) -/

/-- A validated ADAPTHRESH: its source image, mask and destination, and its parameters. -/
structure Adapt where
  a : SlotNo
  m : Option SlotNo
  d : SlotNo
  method : BitVec 3
  boxSize : Word
  bias : Word
  balance : Word

namespace Adapt

variable (q : Adapt) (s : State)

/-- The side of its cells. -/
def side : Nat := cellSide q.boxSize

/-- The number of columns of cells. -/
def mw : Nat := cellCount (s.slot q.a).width q.side

/-- The number of rows of cells. -/
def mh : Nat := cellCount (s.slot q.a).height q.side

/-- Its image. -/
def whole : PixBox := ⟨0, 0, (s.slot q.a).width, (s.slot q.a).height⟩

/-- Cell number `c`. -/
def cell (c : Nat) : PixBox := cellBox q.side (q.mw s) (s.slot q.a).width (s.slot q.a).height c

/-- OT of a box of its image. -/
def ot (b : PixBox) : Option Nat := optimalThreshold .default (grayOf (s.slot q.a)) (s.maskAt q.m) q.method.toNat b

/-- The thresholds of its cells. -/
def thresholds : List (Option Nat) := (List.range (q.mw s * q.mh s)).map fun c => q.ot s (q.cell s c)

/-- The mask value of a cell with threshold `th`, the global one being `g` (R240). -/
def value (g th : Nat) : Nat := cellValue q.bias.toInt (clampBalance q.balance) th g

/-- The mask value of pixel (x, y) (R241). -/
def maskAt (g x y : Nat) : Nat :=
  maskValue .default ((q.thresholds s).map fun th : Option Nat => q.value g (th.getD 0)) q.side (q.mw s) (q.mh s) x y

/-- Its body, with the global threshold `g`. -/
def body (g : Nat) : Body .default where
  units := q.mw s * q.mh s
  fails := fun c => ((q.thresholds s).getD c none).isNone
  stopped := fun _ s' => { s' with result := BitVec.ofNat 32 g }
  finished := fun s' => { s' with result := BitVec.ofNat 32 g }.withSlot q.d
    (freshBw (s'.slot q.d) (s.slot q.a).width (s.slot q.a).height fun x y =>
      decide (q.maskAt s g x y < grayOf (s.slot q.a) x y))

variable {q s} {sa sb sc : SlotArg} {g : Nat}

/-- ADAPTHRESH without a global threshold fails before its first poll. -/
theorem exec_of_ot_none (hc : s.adaptCheck sa sb sc q.method q.balance = .ok (q.a, q.m, q.d))
    (hot : q.ot s (q.whole s) = none) :
    exec (.adaptthresh sa sb sc q.method q.boxSize q.bias q.balance) s = .next (s.failThreshold .noThreshold) := by
  unfold ot whole at hot
  simp only [exec, execAdaptthresh, hc, grayvAs_cls, hot]

/-- ADAPTHRESH with a global threshold takes the turn of its body. -/
theorem exec_of_ot_some (hc : s.adaptCheck sa sb sc q.method q.balance = .ok (q.a, q.m, q.d))
    (hot : q.ot s (q.whole s) = some g) :
    exec (.adaptthresh sa sb sc q.method q.boxSize q.bias q.balance) s = .next (runBody (q.body s g) s) := by
  unfold ot whole at hot
  simp only [exec, execAdaptthresh, hc, grayvAs_cls, hot]
  rfl

theorem slot_finished : ((q.body s g).finished s).slot q.d =
    freshBw (s.slot q.d) (s.slot q.a).width (s.slot q.a).height fun x y =>
      decide (q.maskAt s g x y < grayOf (s.slot q.a) x y) :=
  State.slot_withSlot_same { s with result := BitVec.ofNat 32 g } q.d _

theorem thresholds_getElem? {c : Nat} (hc : c < q.mw s * q.mh s) :
    (q.thresholds s)[c]? = some (q.ot s (q.cell s c)) := by
  simp [thresholds, hc]

theorem thresholds_getD {c : Nat} (hc : c < q.mw s * q.mh s) : (q.thresholds s).getD c none = q.ot s (q.cell s c) := by
  rw [List.getD_eq_getElem?_getD, thresholds_getElem? hc, Option.getD_some]

/-- A box has a threshold where a pixel of it is present in the mask. -/
theorem ot_cases (hmethod : q.method.toNat ≤ 4) (b : PixBox) :
    (¬ HasPixel (s.maskAt q.m) b ∧ q.ot s b = none) ∨ HasPixel (s.maskAt q.m) b ∧ ∃ th, q.ot s b = some th := by
  rcases optimalThreshold_cases (m := s.maskAt q.m) (b := b) (grayOf_lt (s.slot q.a)) hmethod with
    h | ⟨h, th, -, hot⟩
  · exact .inl h
  · exact .inr ⟨h, th, hot⟩

/-- The units that fail are the cells without a present pixel (R243). -/
theorem fails_iff (hmethod : q.method.toNat ≤ 4) {c : Nat} (hc : c < q.mw s * q.mh s) :
    (q.body s g).fails c = true ↔ ¬ HasPixel (s.maskAt q.m) (q.cell s c) := by
  have hfails : (q.body s g).fails c = (q.ot s (q.cell s c)).isNone := congrArg Option.isNone (thresholds_getD hc)
  rw [hfails]
  rcases ot_cases hmethod (q.cell s c) with ⟨hn, hot⟩ | ⟨hp, th, hot⟩
  · rw [hot]
    exact iff_of_true rfl hn
  · rw [hot]
    exact iff_of_false Bool.false_ne_true fun hn => hn hp

theorem fails_eq_false (hmethod : q.method.toNat ≤ 4) {c : Nat} (hc : c < q.mw s * q.mh s)
    (hp : HasPixel (s.maskAt q.m) (q.cell s c)) : (q.body s g).fails c = false :=
  Bool.eq_false_iff.mpr fun h => (fails_iff hmethod hc).mp h hp

/-- A cell lies in the image. -/
theorem hasPixel_whole {c : Nat} (h : HasPixel (s.maskAt q.m) (q.cell s c)) : HasPixel (s.maskAt q.m) (q.whole s) := by
  obtain ⟨x, y, -, hx, -, hy, hm⟩ := h
  exact ⟨x, y, Nat.zero_le x, lt_of_lt_of_le hx (Nat.min_le_right _ _), Nat.zero_le y,
    lt_of_lt_of_le hy (Nat.min_le_right _ _), hm⟩

theorem cells_pos (hv : (s.slot q.a).valid .default = true) : 0 < q.mw s * q.mh s := by
  obtain ⟨hw, hh⟩ := size_pos_of_valid hv
  exact Nat.mul_pos (Nat.zero_lt_of_lt (div_lt_cellCount (cellSide_pos q.boxSize) hw))
    (Nat.zero_lt_of_lt (div_lt_cellCount (cellSide_pos q.boxSize) hh))

/-- A pixel of the result is 1 where its gray value exceeds the mask value of the cell it lies in (R241, R242). -/
theorem pixel_iff (hmethod : q.method.toNat ≤ 4)
    (hcells : ∀ c, c < q.mw s * q.mh s → HasPixel (s.maskAt q.m) (q.cell s c)) {x y : Nat}
    (hx : x < (s.slot q.a).width) (hy : y < (s.slot q.a).height) :
    q.maskAt s g x y < grayOf (s.slot q.a) x y ↔
      ∃ th, q.ot s (q.cell s (x / q.side + y / q.side * q.mw s)) = some th ∧
        q.value g th < grayOf (s.slot q.a) x y := by
  have htx : x / q.side < q.mw s := div_lt_cellCount (cellSide_pos q.boxSize) hx
  have hty : y / q.side < q.mh s := div_lt_cellCount (cellSide_pos q.boxSize) hy
  have hnumber := number_lt htx hty
  obtain ⟨hn, -⟩ | ⟨-, th, hot⟩ := ot_cases hmethod (q.cell s (x / q.side + y / q.side * q.mw s))
  · exact absurd (hcells _ hnumber) hn
  · rw [maskAt, maskValue_default htx hty, List.getD_eq_getElem?_getD, List.getElem?_map,
      thresholds_getElem? hnumber, hot]
    simp

/-- ADAPTHRESH whose cells all have a threshold and that nothing stops succeeds. -/
theorem exec_done (hc : s.adaptCheck sa sb sc q.method q.balance = .ok (q.a, q.m, q.d)) (hmethod : q.method.toNat ≤ 4)
    (hot : q.ot s (q.whole s) = some g)
    (hcells : ∀ c, c < q.mw s * q.mh s → HasPixel (s.maskAt q.m) (q.cell s c))
    (hp : s.pollsPass (q.mw s * q.mh s)) (hq : s.quiet (q.mw s * q.mh s)) :
    exec (.adaptthresh sa sb sc q.method q.boxSize q.bias q.balance) s =
      .next (((q.body s g).finished s).complete .ok false) := by
  have hrun : runBody (q.body s g) s = ((q.body s g).finished s).complete .ok false :=
    runBody_completes (endUnit_of_pollsPass hp) hq fun c _ hlt => fails_eq_false hmethod hlt (hcells c hlt)
  rw [exec_of_ot_some hc hot, hrun]

/-- ADAPTHRESH that a poll stops, with a threshold in every cell before it. -/
theorem exec_cancelled (hc : s.adaptCheck sa sb sc q.method q.balance = .ok (q.a, q.m, q.d))
    (hmethod : q.method.toNat ≤ 4) (hot : q.ot s (q.whole s) = some g) {k : Nat} (hk : s.stopsAt (q.mw s * q.mh s) k)
    (hcells : ∀ c, s.unitsDone ≤ c → c < k → HasPixel (s.maskAt q.m) (q.cell s c)) (hq : s.quiet (q.mw s * q.mh s)) :
    exec (.adaptthresh sa sb sc q.method q.boxSize q.bias q.balance) s = .next (({ s with
      progress := s.polledProgress (q.mw s * q.mh s) k, result := BitVec.ofNat 32 g } : State).complete .ok true) := by
  have hlt : k < q.mw s * q.mh s := hk.1
  have hend : s.endUnit (q.body s g).units = k := (stopsAt_iff_endUnit hlt).mp hk
  have hrun := runBody_cancels (b := q.body s g) (hend.trans_lt hlt) hq fun c h0 h1 =>
    fails_eq_false hmethod ((h1.trans_eq hend).trans hlt) (hcells c h0 (h1.trans_eq hend))
  have hprogress : s.progressAt (q.body s g).units (3 * k + 2) = s.polledProgress (q.mw s * q.mh s) k :=
    progressAt_of_stopsAt hk
  rw [exec_of_ot_some hc hot, hrun, hend, hprogress]
  rfl

end Adapt

/-- A unit whose poll passes is among those that run. -/
theorem lt_endUnit_of_pollsPass {s : State} {c n : Nat} (hdone : s.unitsDone ≤ c) (hc : c < n)
    (h : s.pollsPass (c + 1)) : c < s.endUnit n := by
  obtain h | ⟨hstopping, h⟩ := h
  · omega
  · unfold State.endUnit
    split_ifs with hstop hpassed
    · obtain h | ⟨-, h⟩ := h
      · simp [hstopping, h] at hstop
      · omega
    · obtain h | ⟨h, -⟩ := h
      · simp [hstopping, h] at hstop
      · exact absurd h hpassed
    · exact hc

/-- A body with a unit that fails, past whose poll it comes, ends with NoThreshold. -/
theorem runBody_fails {b : Body .default} {s : State} {c : Nat} (hdone : s.unitsDone ≤ c) (hc : c < b.units)
    (hp : s.pollsPass (c + 1)) (hf : b.fails c = true) (hq : s.quiet b.units) :
    ∃ p, runBody b s = ({ s with progress := p } : State).failThreshold .noThreshold := by
  rw [runBody_concludes hq]
  have hlt := lt_endUnit_of_pollsPass hdone hc hp
  rcases ending_cases b s with ⟨j, hend, -, -, -⟩ | ⟨-, -, hno⟩ | ⟨-, -, hno⟩
  · rw [hend]
    exact ⟨_, rfl⟩
  · simp [hno c hdone hlt] at hf
  · simp [hno c hdone hc] at hf

/-! ### ADAPTHRESH: its endings -/

/-- Settles O43: the completion by `Adapt.exec_done`, a pixel by `Adapt.pixel_iff`. -/
theorem adaptthreshBinarizesByCell : Obligations.AdaptthreshBinarizesByCell := by
  intro s a d sb sc m method boxSize bias balance hv hsb hd hm hmethod hbalance img side mw mh cell ot bal hcells hp hq
  let q : Adapt := ⟨a, m, d, method, boxSize, bias, balance⟩
  have hc := adaptCheck_of hv hsb hd hm hmethod hbalance
  have hcell : ∀ {tx ty}, tx < mw → q.cell s (tx + ty * mw) = cell tx ty := fun htx => cellBox_number htx
  have hall : ∀ c, c < q.mw s * q.mh s → HasPixel (s.maskAt m) (q.cell s c) := fun c hlt =>
    hcells (c % mw) (c / mw) (Nat.mod_lt _ (Nat.pos_of_mul_pos_right (Nat.zero_lt_of_lt hlt)))
      (Nat.div_lt_of_lt_mul hlt)
  obtain ⟨hn, -⟩ | ⟨-, g, hot⟩ := Adapt.ot_cases (q := q) hmethod (q.whole s)
  · exact absurd (Adapt.hasPixel_whole (hall 0 (Adapt.cells_pos hv))) hn
  have hpublishes := publishes_withSlot
    (publishes_result (i := .adaptthresh (.slot a) sb sc method boxSize bias balance) rfl s (BitVec.ofNat 32 g)) d
  refine ⟨_, g, Adapt.exec_done (q := q) hc hmethod hot hall hp hq, succeeded_complete (hpublishes _), hot, rfl,
    fun j hj => State.slot_withSlot_other { s with result := BitVec.ofNat 32 g }
      (fun h => hj (List.mem_singleton.mpr h)) _, ?image⟩
  case image =>
    rw [State.slot_complete, Adapt.slot_finished (q := q)]
    refine isFreshBw_freshBw _ (width_le _) (height_le _) fun x y hx hy => ?_
    rw [decide_eq_true_eq, Adapt.pixel_iff hmethod hall hx hy]
    have htx : x / side < mw := div_lt_cellCount (cellSide_pos boxSize) hx
    exact exists_congr fun th => and_congr_left fun _ => by rw [← hcell htx]; rfl

/-- Settles O44: the three endings of `Adapt.exec_of_ot_none`, `Adapt.exec_cancelled` and `runBody_fails`. -/
theorem adaptthreshStopsWithoutWriting : Obligations.AdaptthreshStopsWithoutWriting := by
  intro s a d sb sc m method boxSize bias balance hv hsb hd hm hmethod hbalance img side mw mh cell whole
  let q : Adapt := ⟨a, m, d, method, boxSize, bias, balance⟩
  have hc : s.adaptCheck (.slot a) sb sc q.method q.balance = .ok (q.a, q.m, q.d) :=
    adaptCheck_of hv hsb hd hm hmethod hbalance
  obtain ⟨hnone, hot⟩ | ⟨hsome, g, hot⟩ := Adapt.ot_cases (q := q) hmethod (q.whole s)
  · refine ⟨_, Adapt.exec_of_ot_none hc hot, fun _ => ⟨rfl, completed_failThreshold s, rfl⟩,
      fun k _ h => absurd h hnone, fun c _ _ _ _ _ => ?_⟩
    exact ⟨rfl, rfl, rfl, rfl, rfl, rfl, keepsControl_failThreshold s s.progress⟩
  · refine ⟨_, Adapt.exec_of_ot_some hc hot, fun h => absurd hsome h, fun k hk _ hcells hq => ?cancelled,
      fun c hdone hlt hp hn hq => ?failed⟩
    case cancelled =>
      have hcancelled := Adapt.exec_cancelled hc hmethod hot hk hcells hq
      rw [Adapt.exec_of_ot_some hc hot] at hcancelled
      rw [Host.Outcome.next.inj hcancelled]
      exact ⟨rfl, completed_result s _ _, g, hot, rfl⟩
    case failed =>
      have hfails : (q.body s g).fails c = true := (Adapt.fails_iff (q := q) hmethod hlt).mpr hn
      obtain ⟨p, hrun⟩ := runBody_fails hdone hlt hp hfails hq
      rw [hrun]
      exact ⟨rfl, rfl, rfl, rfl, rfl, rfl, keepsControl_failThreshold s p⟩

end Sys2Proof.Machine

end

section

/-! FLOODFILL (O46, O47, O48): the search of 45_region.md R262 visits exactly the region of the seed, the paint of R261,
and the selection and its box of R263. -/

namespace Sys2Proof.Machine

-- As in Tests/Slice0: every thread that elaborates beside this one reserves a stack of its own.
set_option Elab.async false

/-! ### Positions -/

theorem movePt_eq_some {w h : Nat} {p q : Pt} {dx dy : Int} :
    movePt w h p dx dy = some q ↔ (q.1 : Int) = p.1 + dx ∧ (q.2 : Int) = p.2 + dy ∧ q.1 < w ∧ q.2 < h := by
  obtain ⟨x, y⟩ := q
  simp only [movePt]
  split_ifs with h
  · simp only [Option.some.injEq, Prod.mk.injEq]
    omega
  · simp only [false_iff]
    omega

/-- The four directions of a fill lead to the neighbours inside the image (R262). -/
theorem adjacent_iff_movePt {w h : Nat} {p q : Pt} (hq : q.1 < w ∧ q.2 < h) :
    Adjacent p q ↔ ∃ d ∈ fillDirs, movePt w h p d.1 d.2 = some q := by
  simp only [fillDirs, List.mem_cons, List.not_mem_nil, or_false, exists_eq_or_imp, exists_eq_left, movePt_eq_some,
    Adjacent]
  omega

/-! ### One round of the search -/

section

variable {t : Slot} {seed : Pt} {tol : Nat}

/-- The match test (R260) limits its bounds to a byte's range, which a lane cannot leave. -/
theorem fillMatches_iff {q : Pt} : fillMatches t seed tol q = true ↔ ∀ ch, ch < t.lanes →
    t.lane seed.1 seed.2 ch ≤ t.lane q.1 q.2 ch + tol ∧ t.lane q.1 q.2 ch ≤ t.lane seed.1 seed.2 ch + tol := by
  simp only [fillMatches, List.all_eq_true, List.mem_range, Bool.and_eq_true, decide_eq_true_eq]
  refine forall₂_congr fun ch _ => ?_
  have hbyte := lane_le t q.1 q.2 ch
  omega

theorem fillable_iff {q : Pt} : Fillable t seed tol q ↔
    (q.1 < t.width ∧ q.2 < t.height) ∧ (t.inscope q.1 q.2 && fillMatches t seed tol q) = true := by
  rw [Bool.and_eq_true, fillMatches_iff, Fillable, and_assoc]

/-- What considering one neighbour does (R262): nothing, where there is none to visit; otherwise it is visited and
queued. -/
theorem fillVisit_cases (t : Slot) (seed : Pt) (tol : Nat) (p : Pt) (st : FillState) (d : Int × Int) :
    (fillVisit t seed tol p st d = st ∧
      ∀ q, movePt t.width t.height p d.1 d.2 = some q → Fillable t seed tol q → q ∈ st.seen) ∨
    ∃ q, movePt t.width t.height p d.1 d.2 = some q ∧ Fillable t seed tol q ∧ q ∉ st.seen ∧
      fillVisit t seed tol p st d = ⟨q :: st.seen, st.queue ++ [q]⟩ := by
  unfold fillVisit
  cases hmove : movePt t.width t.height p d.1 d.2 with
  | none => exact .inl ⟨rfl, nofun⟩
  | some q =>
    have hinside := (movePt_eq_some.mp hmove).2.2
    have hvisits : (!st.seen.contains q && t.inscope q.1 q.2 && fillMatches t seed tol q) = true ↔
        q ∉ st.seen ∧ Fillable t seed tol q := by
      simp [fillable_iff, hinside, and_assoc]
    dsimp only
    split_ifs with h
    · obtain ⟨hnew, hfill⟩ := hvisits.mp h
      exact .inr ⟨q, rfl, hfill, hnew, rfl⟩
    · refine .inl ⟨rfl, fun r hr hfill => ?_⟩
      obtain rfl : q = r := Option.some.inj hr
      exact not_not.mp fun hnew => h (hvisits.mpr ⟨hnew, hfill⟩)

/-- A round with the neighbours of `p` in the directions `ds` visits and queues the same new positions, which are
fillable neighbours of `p`; after it every fillable neighbour in these directions is visited. -/
theorem foldl_fillVisit (p : Pt) (ds : List (Int × Int)) {st : FillState} (hseen : st.seen.Nodup) : ∃ new : List Pt,
    ds.foldl (fillVisit t seed tol p) st = ⟨new.reverse ++ st.seen, st.queue ++ new⟩ ∧
    (new.reverse ++ st.seen).Nodup ∧
    (∀ q ∈ new, Fillable t seed tol q ∧ ∃ d ∈ ds, movePt t.width t.height p d.1 d.2 = some q) ∧
    ∀ d ∈ ds, ∀ q, movePt t.width t.height p d.1 d.2 = some q → Fillable t seed tol q → q ∈ new.reverse ++ st.seen := by
  induction ds generalizing st with
  | nil => exact ⟨[], by simp, hseen, nofun, nofun⟩
  | cons d ds ih =>
    obtain ⟨hskip, hold⟩ | ⟨q, hmove, hfill, hnew, hvisit⟩ := fillVisit_cases t seed tol p st d
    · obtain ⟨new, hfold, hnodup, hreached, hall⟩ := ih hseen
      refine ⟨new, by rw [List.foldl_cons, hskip, hfold], hnodup, fun r hr => ?_, fun e he r hmv hr => ?_⟩
      · obtain ⟨hr, e, he, hmv⟩ := hreached r hr
        exact ⟨hr, e, List.mem_cons_of_mem _ he, hmv⟩
      · obtain rfl | he := List.mem_cons.mp he
        · exact List.mem_append_right _ (hold r hmv hr)
        · exact hall e he r hmv hr
    · obtain ⟨new, hfold, hnodup, hreached, hall⟩ := ih (st := ⟨q :: st.seen, st.queue ++ [q]⟩) (hseen.cons hnew)
      have hlist : (q :: new).reverse ++ st.seen = new.reverse ++ q :: st.seen := by simp
      refine ⟨q :: new, by rw [List.foldl_cons, hvisit, hfold, hlist]; simp, hlist ▸ hnodup, fun r hr => ?_,
        fun e he r hmv hr => ?_⟩
      · obtain rfl | hr := List.mem_cons.mp hr
        · exact ⟨hfill, d, List.mem_cons_self, hmove⟩
        · obtain ⟨hr, e, he, hmv⟩ := hreached r hr
          exact ⟨hr, e, List.mem_cons_of_mem _ he, hmv⟩
      · rw [hlist]
        obtain rfl | he := List.mem_cons.mp he
        · obtain rfl : q = r := Option.some.inj (hmove.symm.trans hmv)
          exact List.mem_append_right _ List.mem_cons_self
        · exact hall e he r hmv hr

/-! ### The search -/

/-- What holds before each round of a fill: the visited positions are pixels of the region, the queued ones are among
them, and of the others every fillable neighbour is visited. -/
structure FillInv (t : Slot) (seed : Pt) (tol : Nat) (st : FillState) : Prop where
  nodup : st.seen.Nodup
  inside : ∀ p ∈ st.seen, p.1 < t.width ∧ p.2 < t.height
  reached : ∀ p ∈ st.seen, FillReach t seed tol p
  queued : ∀ p ∈ st.queue, p ∈ st.seen
  start : seed ∈ st.seen
  closed : ∀ p ∈ st.seen, p ∉ st.queue → ∀ q, Adjacent p q → Fillable t seed tol q → q ∈ st.seen

/-- No more positions are visited than the image has pixels. -/
theorem FillInv.length_seen_le {st : FillState} (h : FillInv t seed tol st) : st.seen.length ≤ t.area := by
  have hsub : st.seen.toFinset ⊆ Finset.range t.width ×ˢ Finset.range t.height := fun p hp => by
    simpa using h.inside p (List.mem_toFinset.mp hp)
  simpa [Slot.area, List.toFinset_card_of_nodup h.nodup] using Finset.card_le_card hsub

/-- One round: the first of the queue is taken, and as many positions are queued as are visited. -/
theorem FillInv.round {st : FillState} {p : Pt} {rest : List Pt} (h : FillInv t seed tol st)
    (hqueue : st.queue = p :: rest) : ∃ new : List Pt,
    fillDirs.foldl (fillVisit t seed tol p) ⟨st.seen, rest⟩ = ⟨new.reverse ++ st.seen, rest ++ new⟩ ∧
      FillInv t seed tol ⟨new.reverse ++ st.seen, rest ++ new⟩ := by
  obtain ⟨new, hfold, hnodup, hnew, hall⟩ :=
    foldl_fillVisit (t := t) (seed := seed) (tol := tol) p fillDirs (st := ⟨st.seen, rest⟩) h.nodup
  have hp : FillReach t seed tol p := h.reached p (h.queued p (hqueue ▸ List.mem_cons_self))
  refine ⟨new, hfold, hnodup, fun q hq => ?inside, fun q hq => ?reached, fun q hq => ?queued,
    List.mem_append_right _ h.start, fun q hq hout r hadj hfill => ?closed⟩
  case inside =>
    rw [List.mem_append, List.mem_reverse] at hq
    obtain hq | hq := hq
    · exact (fillable_iff.mp (hnew q hq).1).1
    · exact h.inside q hq
  case reached =>
    rw [List.mem_append, List.mem_reverse] at hq
    obtain hq | hq := hq
    · obtain ⟨hfill, hdir⟩ := hnew q hq
      exact .next p q hp ((adjacent_iff_movePt (fillable_iff.mp hfill).1).mpr hdir) hfill
    · exact h.reached q hq
  case queued =>
    obtain hq | hq := List.mem_append.mp hq
    · exact List.mem_append_right _ (h.queued q (hqueue ▸ List.mem_cons_of_mem _ hq))
    · exact List.mem_append_left _ (List.mem_reverse.mpr hq)
  case closed =>
    obtain ⟨hrest, hnotnew⟩ : q ∉ rest ∧ q ∉ new := by simpa using hout
    by_cases hqp : q = p
    · subst hqp
      obtain ⟨d, hd, hmove⟩ := (adjacent_iff_movePt (fillable_iff.mp hfill).1).mp hadj
      exact hall d hd r hmove hfill
    · have hold : q ∈ st.seen := by simpa [hnotnew] using hq
      exact List.mem_append_right _ (h.closed q hold (by simp [hqueue, hqp, hrest]) r hadj hfill)

/-- With nothing queued the visited positions are the whole region. -/
theorem FillInv.mem_seen_iff {st : FillState} (h : FillInv t seed tol st) (hqueue : st.queue = []) (q : Pt) :
    q ∈ st.seen ↔ FillReach t seed tol q := by
  refine ⟨h.reached q, fun hq => ?_⟩
  induction hq with
  | seed => exact h.start
  | next p r _ hadj hfill hp => exact h.closed p hp (by simp [hqueue]) r hadj hfill

/-- A search with rounds enough for the pixels that have not left the queue yet visits the region. -/
theorem mem_fillLoop {fuel : Nat} {st : FillState} (h : FillInv t seed tol st)
    (hfuel : t.area + st.queue.length < fuel + st.seen.length) (q : Pt) :
    q ∈ (fillLoop t seed tol fuel st).seen ↔ FillReach t seed tol q := by
  induction fuel generalizing st with
  | zero =>
    have := h.length_seen_le
    omega
  | succ fuel ih =>
    unfold fillLoop
    cases hqueue : st.queue with
    | nil => exact h.mem_seen_iff hqueue q
    | cons p rest =>
      obtain ⟨new, hround, hinv⟩ := h.round hqueue
      dsimp only
      rw [hround]
      refine ih hinv ?_
      simp only [hqueue, List.length_cons, List.length_append, List.length_reverse] at hfuel ⊢
      omega

theorem fillInv_seed (h : seed.1 < t.width ∧ seed.2 < t.height) : FillInv t seed tol ⟨[seed], [seed]⟩ where
  nodup := List.nodup_singleton seed
  inside := fun _ hp => List.mem_singleton.mp hp ▸ h
  reached := fun _ hp => List.mem_singleton.mp hp ▸ .seed
  queued := fun _ hp => hp
  start := List.mem_singleton_self seed
  closed := fun _ hp hout => absurd hp hout

/-- A fill from a seed inside the image visits exactly the region of the seed (R262). -/
theorem mem_filled (h : seed.1 < t.width ∧ seed.2 < t.height) (q : Pt) :
    q ∈ filled t seed tol ↔ FillReach t seed tol q :=
  mem_fillLoop (fillInv_seed h) (by simp) q

end

/-! ### The seed -/

theorem toInt_of_nonneg {v : BitVec 16} (h : 0 ≤ v.toInt) : v.toInt = v.toNat := by
  have hcond := BitVec.toInt_eq_toNat_cond v
  split_ifs at hcond <;> omega

/-- Moving from the origin by the seed's coordinates comes to the seed, where they are not negative. -/
theorem movePt_origin (w h : Nat) (x0 y0 : BitVec 16) : movePt w h (0, 0) x0.toInt y0.toInt =
    if 0 ≤ x0.toInt ∧ 0 ≤ y0.toInt ∧ x0.toNat < w ∧ y0.toNat < h then some (x0.toNat, y0.toNat) else none := by
  split_ifs with hin
  · obtain ⟨hx, hy, hw, hh⟩ := hin
    exact movePt_eq_some.mpr ⟨by simp [toInt_of_nonneg hx], by simp [toInt_of_nonneg hy], hw, hh⟩
  · refine Option.eq_none_iff_forall_ne_some.mpr fun p hp => hin ?_
    obtain ⟨hpx, hpy, hw, hh⟩ := movePt_eq_some.mp hp
    simp only at hpx hpy
    have hx : 0 ≤ x0.toInt := by omega
    have hy : 0 ≤ y0.toInt := by omega
    have hxnat := toInt_of_nonneg hx
    have hynat := toInt_of_nonneg hy
    omega

/-- The seed is where the operands say, when that is inside and in scope (R262). -/
theorem fillSeed_eq (t : Slot) (x0 y0 : BitVec 16) : fillSeed t x0 y0 =
    if (0 ≤ x0.toInt ∧ 0 ≤ y0.toInt ∧ x0.toNat < t.width ∧ y0.toNat < t.height) ∧
      t.inscope x0.toNat y0.toNat = true then some (x0.toNat, y0.toNat) else none := by
  simp only [fillSeed, movePt_origin]
  by_cases hin : 0 ≤ x0.toInt ∧ 0 ≤ y0.toInt ∧ x0.toNat < t.width ∧ y0.toNat < t.height
  · rw [if_pos hin]
    simp only [hin, and_self, true_and]
  · rw [if_neg hin, if_neg fun h => hin h.1]

/-! ### The completion -/

theorem State.withSlot_slot (s : State) (i : SlotNo) : s.withSlot i (s.slot i) = s := by
  simp [State.withSlot, State.slot]

/-- The checks of FLOODFILL pass for a valid image and an index that its palette holds (60_exceptions.md R282). -/
theorem fillCheck_of {s : State} {a : SlotNo} {index : Byte} (hv : (s.slot a).valid .default = true)
    (hindex : (s.slot a).depth ≠ 3#2 → index.toNat < (s.slot a).paln.toNat) : s.fillCheck (.slot a) index = .ok a := by
  have hpasses : ((s.slot a).indexed && decide ((s.slot a).paln.toNat ≤ index.toNat)) = false := by
    by_cases hdepth : (s.slot a).depth = 3#2
    · simp [Slot.indexed, hdepth]
    · simp [hindex hdepth]
  simp [State.fillCheck, source_of_valid hv, hpasses]

/-- FLOODFILL with checks that pass and no host in its way publishes the filled slot, and nothing else. -/
theorem exec_floodfill_done {s : State} {a : SlotNo} {x0 y0 : BitVec 16} {color : Color}
    {index tolerance opacity level : Byte} (track : Bool) (hv : (s.slot a).valid .default = true)
    (hindex : (s.slot a).depth ≠ 3#2 → index.toNat < (s.slot a).paln.toNat) (hq : s.quiet 0) :
    exec (.floodfill (.slot a) track x0 y0 color index tolerance opacity level) s =
      .next ((s.withSlot a (fillSlot (s.slot a) track x0 y0 color index tolerance opacity level)).complete .ok false) := by
  simp only [exec, execFloodfill, fillCheck_of hv hindex]
  exact congrArg Host.Outcome.next (runBody_wholeBody hq)

/-- Settles O48: without a seed (`fillSeed_eq`) the slot is published as it was. -/
theorem floodfillOutsideIsANoOp : Obligations.FloodfillOutsideIsANoOp := by
  intro s a track x0 y0 color index tolerance opacity level hv hindex hq hout
  have hseed : fillSeed (s.slot a) x0 y0 = none := by
    rw [fillSeed_eq]
    refine if_neg fun ⟨⟨hx, hy, hw, hh⟩, hscope⟩ => ?_
    simp only [hscope, Bool.true_eq_false, or_false] at hout
    omega
  have hslot : fillSlot (s.slot a) track x0 y0 color index tolerance opacity level = s.slot a := by
    simp only [fillSlot, hseed]
  rw [exec_floodfill_done track hv hindex hq, hslot, State.withSlot_slot]

/-! ### The paint (R261) -/

section

variable {color : Color} {index opacity : Byte} {ch : Nat}

/-- A blend of bytes is a byte, and the one of R261. -/
theorem toNat_blend (fill old : Byte) : (BitVec.ofNat 8 (blend fill.toNat opacity.toNat old.toNat)).toNat =
    if opacity = 255#8 then fill.toNat else (fill.toNat * opacity.toNat + old.toNat * (255 - opacity.toNat)) / 256 := by
  have hfull : opacity.toNat = 255 ↔ opacity = 255#8 := by simp [← BitVec.toNat_inj]
  have hfill := fill.isLt
  have hold := old.isLt
  have hop := opacity.isLt
  simp only [blend, hfull, Nat.shiftRight_eq_div_pow, BitVec.toNat_ofNat]
  split_ifs
  · exact Nat.mod_eq_of_lt hfill
  · have hsum : fill.toNat * opacity.toNat + old.toNat * (255 - opacity.toNat) ≤ 255 * 255 := by
      calc fill.toNat * opacity.toNat + old.toNat * (255 - opacity.toNat)
          ≤ 255 * opacity.toNat + 255 * (255 - opacity.toNat) :=
            Nat.add_le_add (Nat.mul_le_mul_right _ (by omega)) (Nat.mul_le_mul_right _ (by omega))
        _ = 255 * 255 := by omega
    exact Nat.mod_eq_of_lt (by omega)

/-- A lane is the stored byte of its offset, but for DEPTH 1 (10_state.md R49). -/
theorem lane_of_depth_ne_one {t : Slot} (h : t.depth ≠ 1#2) (x y ch : Nat) :
    t.lane x y ch = (t.pixByte (t.offsetOf x y ch)).toNat := by
  simp only [Slot.lane, Slot.offsetOf, h, if_false]

theorem depth_of_cls_rgb24 {t : Slot} (h : t.cls = .rgb24) : t.depth ≠ 1#2 := by
  intro hdepth
  simp [Slot.cls, hdepth] at h

theorem depth_of_cls_idx1 {t : Slot} (h : t.cls = .idx1) : t.depth = 1#2 := by
  unfold Slot.cls at h
  split_ifs at h
  assumption

/-- An index that the palette of a valid IDX1 image holds is a bit (10_state.md R41). -/
theorem index_mod_two {t : Slot} (hv : t.valid .default = true) (hcls : t.cls = .idx1)
    (hindex : t.depth ≠ 3#2 → index.toNat < t.paln.toNat) : index.toNat % 2 = index.toNat := by
  have hdepth := depth_of_cls_idx1 hcls
  have hpaln : t.paln.toNat ≤ 2 := by
    simp only [Slot.valid, hdepth, if_true, Bool.and_eq_true, decide_eq_true_eq] at hv
    exact hv.2.2
  have := hindex (by rw [hdepth]; decide)
  omega

/-- The painted value of a lane is the one of R261, class by class. -/
theorem isPainted_paintLane {t : Slot} {x y : Nat} (hv : t.valid .default = true)
    (hindex : t.depth ≠ 3#2 → index.toNat < t.paln.toNat) (hop : opacity ≠ 0#8) :
    IsPainted t.cls color index opacity ch (t.pixByte (t.offsetOf x y ch))
      (BitVec.ofNat 8 (paintLane t.cls color index opacity.toNat ch (t.lane x y ch))) := by
  simp only [IsPainted, if_neg hop]
  cases hcls : t.cls with
  | rgb24 =>
    rw [lane_of_depth_ne_one (depth_of_cls_rgb24 hcls)]
    simp only [paintLane, ← apply_ite BitVec.toNat]
    exact toNat_blend _ _
  | gray8 =>
    rw [lane_of_depth_ne_one (by rw [depth_of_cls_gray8 hcls]; decide)]
    exact toNat_blend _ _
  | idx1 => simp [paintLane, index_mod_two hv hcls hindex]
  | idx8 => simp [paintLane]
  | noImage => simp [paintLane]

end

section

variable {t : Slot} {seen : List Pt} {color : Color} {index opacity level : Byte}

/-- Painting touches the pixel plane only. -/
theorem fillPaint_eq : ∃ pix, fillPaint t seen color index opacity = { t with pix := pix } := by
  unfold fillPaint
  split_ifs
  · exact ⟨_, rfl⟩
  · exact ⟨_, rfl⟩

theorem pixByte_fillPaint_of_le {o : Nat} (ho : t.extent ≤ o) :
    (fillPaint t seen color index opacity).pixByte o = t.pixByte o := by
  unfold fillPaint
  split_ifs
  · rfl
  · rw [Slot.pixByte_paint, if_neg fun h => Nat.not_lt.mpr ho h.1]

/-- Lane `ch` of a visited pixel is painted, and that of any other kept. -/
theorem pixByte_fillPaint {x y ch : Nat} (hv : t.valid .default = true)
    (hindex : t.depth ≠ 3#2 → index.toNat < t.paln.toNat) (hx : x < t.width) (hy : y < t.height) (hch : ch < t.lanes) :
    let old := t.pixByte (t.offsetOf x y ch)
    let new := (fillPaint t seen color index opacity).pixByte (t.offsetOf x y ch)
    ((x, y) ∈ seen → IsPainted t.cls color index opacity ch old new) ∧ ((x, y) ∉ seen → new = old) := by
  dsimp only
  unfold fillPaint
  split_ifs with hop
  · exact ⟨fun _ => by subst hop; rfl, fun _ => rfl⟩
  · rw [pixByte_paint_offsetOf _ _ hx hy hch]
    refine ⟨fun h => ?_, fun h => if_neg (mt List.contains_iff_mem.mp h)⟩
    rw [if_pos (List.contains_iff_mem.mpr h)]
    exact isPainted_paintLane hv hindex hop

end

section

variable {t : Slot} {x0 y0 : BitVec 16} {color : Color} {index tolerance opacity level : Byte}

/-- The slot after a fill with a seed (R262, R263). -/
theorem fillSlot_of_seed (track : Bool) (hx : 0 ≤ x0.toInt) (hy : 0 ≤ y0.toInt) (hw : x0.toNat < t.width)
    (hh : y0.toNat < t.height) (hscope : t.inscope x0.toNat y0.toNat = true) :
    fillSlot t track x0 y0 color index tolerance opacity level =
      let seen := filled t (x0.toNat, y0.toNat) tolerance.toNat
      let d := fillPaint t seen color index opacity
      if track then trackSelection t d seen level else d := by
  simp only [fillSlot, fillSeed_eq, hx, hy, hw, hh, hscope, and_self, if_true]

/-- A fill leaves the size, the format, the palette and the alpha plane, and without tracking the selection (R262). -/
theorem fillSlot_frame (t : Slot) (track : Bool) (x0 y0 : BitVec 16) (color : Color)
    (index tolerance opacity level : Byte) :
    let new := fillSlot t track x0 y0 color index tolerance opacity level
    (new.sdim = t.sdim ∧ new.depth = t.depth ∧ new.paln = t.paln ∧ new.alpha = t.alpha ∧
      (∀ i, new.palEntry i = t.palEntry i) ∧ ∀ o, new.alpByte o = t.alpByte o) ∧
    (track = false → new.sfmt = t.sfmt ∧ new.sbox0 = t.sbox0 ∧ new.sbox1 = t.sbox1 ∧
      ∀ o, new.selByte o = t.selByte o) := by
  unfold fillSlot
  cases fillSeed t x0 y0 with
  | none => exact ⟨⟨rfl, rfl, rfl, rfl, fun _ => rfl, fun _ => rfl⟩, fun _ => ⟨rfl, rfl, rfl, fun _ => rfl⟩⟩
  | some seed =>
    obtain ⟨pix, hpaint⟩ := fillPaint_eq (t := t) (seen := filled t seed tolerance.toNat) (color := color)
      (index := index) (opacity := opacity)
    simp only [hpaint]
    cases track with
    | false => exact ⟨⟨rfl, rfl, rfl, rfl, fun _ => rfl, fun _ => rfl⟩, fun _ => ⟨rfl, rfl, rfl, fun _ => rfl⟩⟩
    | true => exact ⟨⟨rfl, rfl, rfl, rfl, fun _ => rfl, fun _ => rfl⟩, nofun⟩

/-- The pixel plane after a fill with a seed: tracking does not touch it. -/
theorem pixByte_fillSlot (track : Bool) (hx : 0 ≤ x0.toInt) (hy : 0 ≤ y0.toInt) (hw : x0.toNat < t.width)
    (hh : y0.toNat < t.height) (hscope : t.inscope x0.toNat y0.toNat = true) (o : Nat) :
    (fillSlot t track x0 y0 color index tolerance opacity level).pixByte o =
      (fillPaint t (filled t (x0.toNat, y0.toNat) tolerance.toNat) color index opacity).pixByte o := by
  rw [fillSlot_of_seed track hx hy hw hh hscope]
  cases track <;> rfl

end

/-- Settles O46: the visited pixels are the region's by `mem_filled`, their bytes those of `pixByte_fillPaint`. -/
theorem floodfillPaintsTheRegion : Obligations.FloodfillPaintsTheRegion := by
  intro s a track x0 y0 color index tolerance opacity level hv hindex hq img seed hx hy hw hh hscope
  obtain ⟨hsucceeded, hresult⟩ := succeeded_of_publishes (publishes_withSlot (publishes_refl
    (.floodfill (.slot a) track x0 y0 color index tolerance opacity level) s) a _) rfl
  obtain ⟨⟨hsdim, hdepth, hpaln, halpha, hpal, halp⟩, hselection⟩ :=
    fillSlot_frame img track x0 y0 color index tolerance opacity level
  refine ⟨_, exec_floodfill_done track hv hindex hq, hsucceeded, hresult,
    fun i hi => State.slot_withSlot_other s (fun h => hi (List.mem_singleton.mpr h)) _, ?_⟩
  simp only [State.slot_complete, State.slot_withSlot_same]
  refine ⟨hsdim, hdepth, hpaln, halpha, hpal, halp, fun o ho => ?beyond, fun x y ch hx' hy' hch => ?pixels, hselection⟩
  case beyond =>
    rw [pixByte_fillSlot track hx hy hw hh hscope, pixByte_fillPaint_of_le ho]
  case pixels =>
    obtain ⟨hvisited, hother⟩ := pixByte_fillPaint (color := color) (index := index) (opacity := opacity)
      (seen := filled img seed tolerance.toNat) hv hindex hx' hy' hch
    rw [mem_filled ⟨hw, hh⟩] at hvisited hother
    rw [pixByte_fillSlot track hx hy hw hh hscope]
    exact ⟨hvisited, hother⟩

/-! ### The selection (R263) -/

section

variable {t d : Slot} {seen : List Pt} {level : Byte}

/-- A selection byte after the tracking, of the image's offsets the one that `trackByte` makes. -/
theorem selByte_trackSelection (hd : ∀ o, d.selByte o = t.selByte o) (o : Nat) :
    (trackSelection t d seen level).selByte o = if o < t.area then trackByte t seen level o else t.selByte o := by
  have hget : (trackSelection t d seen level).selByte o =
      if o < t.area ∧ (t.selv && !seen.contains (o % t.width, o / t.width)) = false then trackByte t seen level o
      else d.selByte o := by
    unfold Slot.selByte trackSelection
    simp only [memGet_memPatch]
    split_ifs <;> simp_all
  rw [hget, hd]
  cases hkept : t.selv && !seen.contains (o % t.width, o / t.width) with
  | true =>
    have hbyte : trackByte t seen level o = t.selByte o := by
      simp only [Bool.and_eq_true, Bool.not_eq_true'] at hkept
      simp only [trackByte, hkept, if_true, Bool.false_eq_true, if_false]
    rw [hbyte, ite_self, ite_self]
  | false => simp only [and_true]

theorem selByte_trackSelection_pixel {x y : Nat} (hd : ∀ o, d.selByte o = t.selByte o) (hx : x < t.width)
    (hy : y < t.height) :
    (trackSelection t d seen level).selByte (y * t.width + x) = trackByte t seen level (y * t.width + x) :=
  (selByte_trackSelection hd _).trans (if_pos (pixel_number hx hy).1)

theorem trackByte_pixel {x y : Nat} (hx : x < t.width) (hy : y < t.height) :
    trackByte t seen level (y * t.width + x) =
      let old := if t.selv then t.selByte (y * t.width + x) else 0#8
      if (x, y) ∈ seen then old ||| level else old := by
  obtain ⟨-, hmod, hdiv⟩ := pixel_number hx hy
  simp only [trackByte, hmod, hdiv, List.contains_iff_mem]

end

/-! ### The box about the selection (R263) -/

/-- The box `b` is the smallest about the positions `ps`, of which there is one. -/
structure IsBoundingBox (ps : List Pt) (b : PixBox) : Prop where
  covers : ∀ p ∈ ps, b.x0 ≤ p.1 ∧ p.1 < b.x1 ∧ b.y0 ≤ p.2 ∧ p.2 < b.y1
  left : ∃ p ∈ ps, p.1 = b.x0
  bottom : ∃ p ∈ ps, p.2 = b.y0
  right : ∃ p ∈ ps, p.1 + 1 = b.x1
  top : ∃ p ∈ ps, p.2 + 1 = b.y1

/-- The box with position `q` taken in, a step of `boundingBox`. -/
def PixBox.widen (b : PixBox) (q : Pt) : PixBox :=
  ⟨min b.x0 q.1, min b.y0 q.2, max b.x1 (q.1 + 1), max b.y1 (q.2 + 1)⟩

theorem boundingBox_cons (p : Pt) (r : List Pt) :
    boundingBox (p :: r) = r.foldl PixBox.widen ⟨p.1, p.2, p.1 + 1, p.2 + 1⟩ := rfl

theorem exists_eq_min {ps : List Pt} {f : Pt → Nat} {n : Nat} (h : ∃ p ∈ ps, f p = n) (q : Pt) :
    ∃ p ∈ ps ++ [q], f p = min n (f q) := by
  obtain ⟨p, hp, rfl⟩ := h
  obtain hmin | hmin := min_choice (f p) (f q)
  · exact ⟨p, List.mem_append_left _ hp, hmin.symm⟩
  · exact ⟨q, List.mem_append_right _ (List.mem_singleton_self q), hmin.symm⟩

theorem exists_eq_max {ps : List Pt} {f : Pt → Nat} {n : Nat} (h : ∃ p ∈ ps, f p = n) (q : Pt) :
    ∃ p ∈ ps ++ [q], f p = max n (f q) := by
  obtain ⟨p, hp, rfl⟩ := h
  obtain hmax | hmax := max_choice (f p) (f q)
  · exact ⟨p, List.mem_append_left _ hp, hmax.symm⟩
  · exact ⟨q, List.mem_append_right _ (List.mem_singleton_self q), hmax.symm⟩

theorem IsBoundingBox.widen {ps : List Pt} {b : PixBox} (h : IsBoundingBox ps b) (q : Pt) :
    IsBoundingBox (ps ++ [q]) (b.widen q) where
  covers := fun p hp => by
    simp only [PixBox.widen]
    obtain hp | hp := List.mem_append.mp hp
    · have := h.covers p hp
      omega
    · obtain rfl := List.mem_singleton.mp hp
      omega
  left := exists_eq_min h.left q
  bottom := exists_eq_min h.bottom q
  right := exists_eq_max h.right q
  top := exists_eq_max h.top q

theorem IsBoundingBox.foldl_widen {ps : List Pt} {b : PixBox} (h : IsBoundingBox ps b) (r : List Pt) :
    IsBoundingBox (ps ++ r) (r.foldl PixBox.widen b) := by
  induction r generalizing ps b with
  | nil => rwa [List.append_nil]
  | cons q r ih =>
    rw [List.append_cons]
    exact ih (h.widen q)

theorem isBoundingBox_boundingBox {ps : List Pt} (h : ps ≠ []) : IsBoundingBox ps (boundingBox ps) := by
  cases ps with
  | nil => exact absurd rfl h
  | cons p r =>
    have hpoint : IsBoundingBox [p] ⟨p.1, p.2, p.1 + 1, p.2 + 1⟩ :=
      ⟨by simp, by simp, by simp, by simp, by simp⟩
    exact hpoint.foldl_widen r

/-- The positions that are selected after the tracking, the list `now` of R263. -/
def trackedPixels (t : Slot) (seen : List Pt) (level : Byte) : List Pt :=
  (PixBox.pixels ⟨0, 0, t.width, t.height⟩).filter (trackNow t seen level)

section

variable {t d : Slot} {seen : List Pt} {level : Byte}

theorem mem_trackedPixels {x y : Nat} (hd : ∀ o, d.selByte o = t.selByte o) :
    (x, y) ∈ trackedPixels t seen level ↔ x < t.width ∧ y < t.height ∧ ((t.selv = true ∧ t.inscope x y = true) ∨
      ((x, y) ∈ seen ∧ (trackSelection t d seen level).selByte (y * t.width + x) ≠ 0#8)) := by
  simp only [trackedPixels, List.mem_filter, mem_pixels, Nat.zero_le, true_and, trackNow, Bool.or_eq_true,
    Bool.and_eq_true, List.contains_iff_mem, bne_iff_ne, and_assoc]
  refine and_congr_right fun hx => and_congr_right fun hy => ?_
  rw [selByte_trackSelection_pixel hd hx hy]

/-- The box's registers are zero where no pixel is selected. -/
theorem sbox_of_trackedPixels_nil (h : trackedPixels t seen level = []) :
    (trackSelection t d seen level).sbox0 = 0#32 ∧ (trackSelection t d seen level).sbox1 = 0#32 := by
  unfold trackedPixels at h
  simp only [trackSelection, Slot.sbox0, Slot.sbox1, h]
  exact ⟨rfl, rfl⟩

/-- Where a pixel is selected the box's registers hold the smallest box, whose corners fit them. -/
theorem isBoundingBox_trackSelection (h : trackedPixels t seen level ≠ []) :
    let new := trackSelection t d seen level
    IsBoundingBox (trackedPixels t seen level) ⟨new.bx0.toNat, new.by0.toNat, new.bx1.toNat, new.by1.toNat⟩ := by
  intro new
  let b := boundingBox (trackedPixels t seen level)
  have hbox : IsBoundingBox (trackedPixels t seen level) b := isBoundingBox_boundingBox h
  have hinside : ∀ p ∈ trackedPixels t seen level, p.1 < t.width ∧ p.2 < t.height := fun p hp => by
    have := mem_pixels.mp (List.mem_filter.mp hp).1
    exact ⟨this.1.2, this.2.2⟩
  have hw := width_le t
  have hh := height_le t
  obtain ⟨p, hp, hleft⟩ := hbox.left
  obtain ⟨q, hq, hbottom⟩ := hbox.bottom
  obtain ⟨u, hu, hright⟩ := hbox.right
  obtain ⟨v, hv, htop⟩ := hbox.top
  have := hinside p hp
  have := hinside q hq
  have := hinside u hu
  have := hinside v hv
  have hfits : ∀ n ≤ 65535, (BitVec.ofNat 16 n).toNat = n := fun n hn =>
    (BitVec.toNat_ofNat n 16).trans (Nat.mod_eq_of_lt (Nat.lt_succ_of_le hn))
  have hregisters : (⟨new.bx0.toNat, new.by0.toNat, new.bx1.toNat, new.by1.toNat⟩ : PixBox) = b :=
    (PixBox.mk.injEq ..).mpr ⟨hfits b.x0 (by omega), hfits b.y0 (by omega), hfits b.x1 (by omega), hfits b.y1 (by omega)⟩
  exact hregisters ▸ hbox

end

/-- Settles O47: the bytes by `selByte_trackSelection`, the box by `isBoundingBox_trackSelection`. -/
theorem floodfillTracksTheSelection : Obligations.FloodfillTracksTheSelection := by
  intro s a x0 y0 color index tolerance opacity level hv hindex hq img seed hx hy hw hh hscope
  let seen := filled img seed tolerance.toNat
  let d := fillPaint img seen color index opacity
  have hslot : fillSlot img true x0 y0 color index tolerance opacity level = trackSelection img d seen level :=
    fillSlot_of_seed true hx hy hw hh hscope
  have hd : ∀ o, d.selByte o = img.selByte o := by
    obtain ⟨pix, hpaint⟩ : ∃ pix, d = { img with pix := pix } := fillPaint_eq
    intro o
    rw [hpaint]
    rfl
  refine ⟨_, exec_floodfill_done true hv hindex hq, ?_⟩
  rw [State.slot_complete, State.slot_withSlot_same, hslot]
  refine ⟨rfl, fun o ho => ?beyond, fun x y hx' hy' => ?bytes, ?box⟩
  case beyond => rw [selByte_trackSelection hd, if_neg (Nat.not_lt.mpr ho)]
  case bytes =>
    rw [selByte_trackSelection_pixel hd hx' hy', trackByte_pixel hx' hy', ← mem_filled ⟨hw, hh⟩]
    exact ⟨fun h => if_pos h, fun h => if_neg h⟩
  case box =>
    intro now bx
    have hnow : ∀ x y, now x y ↔ (x, y) ∈ trackedPixels img seen level := fun x y => by
      rw [mem_trackedPixels hd, mem_filled ⟨hw, hh⟩]
    have hbox := fun {x y} (h : now x y) =>
      isBoundingBox_trackSelection (d := d) (List.ne_nil_of_mem ((hnow x y).mp h))
    refine ⟨fun hnone => ?none, fun x y h => (hbox h).covers (x, y) ((hnow x y).mp h), fun ⟨x, y, h⟩ => ?sides⟩
    case none =>
      exact sbox_of_trackedPixels_nil (List.eq_nil_iff_forall_not_mem.mpr fun p hp => hnone p.1 p.2 ((hnow _ _).mpr hp))
    case sides =>
      obtain ⟨p, hp, hleft⟩ := (hbox h).left
      obtain ⟨q, hq, hright⟩ := (hbox h).right
      obtain ⟨u, hu, hbottom⟩ := (hbox h).bottom
      obtain ⟨v, hv, htop⟩ := (hbox h).top
      have hat : ∀ {r : Pt} {x y}, r ∈ trackedPixels img seen level → r.1 = x → r.2 = y → now x y := by
        rintro r _ _ hr rfl rfl
        exact (hnow _ _).mpr hr
      exact ⟨⟨p.2, hat hp hleft rfl⟩, ⟨q.2, hat hq (Nat.eq_sub_of_add_eq hright) rfl⟩, ⟨u.1, hat hu rfl hbottom⟩,
        ⟨v.1, hat hv rfl (Nat.eq_sub_of_add_eq htop)⟩⟩

end Sys2Proof.Machine

end

section

/-! TRACE (O49, O50): the FRESH_RGB24 image that it leaves (40_common.md R130, 45_region.md R267), its start (R265), and
its loop against the walk that Safety states (R264, R266). -/

namespace Sys2Proof.Machine

-- As in Tests/Slice0: every thread that elaborates beside this one reserves a stack of its own.
set_option Elab.async false

/-! ### The image -/

/-- A size that fits SDIM's 16-bit fields makes `freshRgb24` the image of R130, as far as the plane reaches. -/
theorem isFreshRgb24_freshRgb24 (d : Slot) {w h : Nat} {f g : Nat → Nat → Color} (hw : w ≤ 65535) (hh : h ≤ 65535)
    (hfg : ∀ x y, f x y = g x y) : IsFreshRgb24 d (freshRgb24 .default d w h f) w h g := by
  have hbyte : ∀ {x y ch}, x < w → y < h → ch < 3 → (y * w + x) * 3 + ch < Config.default.planeBytes →
      (freshRgb24 .default d w h f).pixByte ((y * w + x) * 3 + ch) =
        if ch = 0 then (g x y).r else if ch = 1 then (g x y).g else (g x y).b := by
    intro x y ch hx hy hch hplane
    obtain ⟨hlt, hmod, hdiv⟩ := pixel_number hx hy
    rw [pixByte_freshRgb24, if_pos (lt_min (by omega) hplane), show ((y * w + x) * 3 + ch) / 3 = y * w + x by omega,
      show ((y * w + x) * 3 + ch) % 3 = ch by omega, hmod, hdiv, hfg]
  exact {
    descriptor := {
      width := (BitVec.toNat_ofNat w 16).trans (Nat.mod_eq_of_lt (by omega))
      height := (BitVec.toNat_ofNat h 16).trans (Nat.mod_eq_of_lt (by omega))
      depth := rfl
      paln := rfl
      alpha := rfl
      selv := rfl
      sbox0 := (rfl : (0#16 ++ 0#16 : Word) = 0#32)
      sbox1 := (rfl : (0#16 ++ 0#16 : Word) = 0#32)
      alphaPlane := fun _ => rfl
      selPlane := fun _ => rfl }
    palette := fun _ => rfl
    red := fun _ _ hx hy => hbyte (ch := 0) hx hy (by decide)
    green := fun _ _ hx hy => hbyte (ch := 1) hx hy (by decide)
    blue := fun _ _ hx hy => hbyte (ch := 2) hx hy (by decide)
    beyond := fun o ho => (pixByte_freshRgb24 d w h f o).trans
      (if_neg fun hlt => Nat.not_lt.mpr ho (lt_min_iff.mp hlt).1) }

/-- The checks of TRACE pass when each of them does. -/
theorem traceCheck_of {s : State} {a d : SlotNo} {sb : SlotArg} (hv : (s.slot a).valid .default = true)
    (hd : dest a sb = .ok d) : s.traceCheck (.slot a) sb = .ok (a, d) := by
  simp [State.traceCheck, source_of_valid hv, hd]

/-- Settles O49: the completion by `succeeded_of_publishes`, the image by `isFreshRgb24_freshRgb24`. -/
theorem traceDrawsOnWhite : Obligations.TraceDrawsOnWhite := by
  intro s a d sb target traceColor hv hd hq
  let u := s.withSlot d (freshRgb24 .default (s.slot d) (s.slot a).width (s.slot a).height fun x y =>
    if (tracePoints (s.slot a) target).contains (x, y) then traceColor else ⟨255, 255, 255⟩)
  have hexec : exec (.trace (.slot a) sb target traceColor) s = .next (u.complete .ok false) := by
    simp only [exec, execTrace, traceCheck_of hv hd]
    exact congrArg Host.Outcome.next (runBody_wholeBody hq)
  obtain ⟨hsucceeded, hresult⟩ := succeeded_of_publishes
    (publishes_withSlot (publishes_refl (.trace (.slot a) sb target traceColor) s) d _) rfl
  refine ⟨_, hexec, hsucceeded, hresult,
    fun j hj => State.slot_withSlot_other s (fun h => hj (List.mem_singleton.mpr h)) _, ?_⟩
  rw [State.slot_complete, State.slot_withSlot_same]
  exact isFreshRgb24_freshRgb24 _ (width_le _) (height_le _) fun x y => by simp only [List.contains_iff_mem]

/-! ### The start (R265) -/

/-- Pixel `p` comes before `q` in the scan: in a lower row, or in the same row to the left. -/
def ScanBefore (p q : Pt) : Prop := p.2 < q.2 ∨ (p.2 = q.2 ∧ p.1 < q.1)

/-- The pixels of a box are listed in scan order. -/
theorem pairwise_pixels (b : PixBox) : b.pixels.Pairwise ScanBefore := by
  refine List.pairwise_flatMap.mpr ⟨fun y _ => ?row, ?rows⟩
  case row => exact List.pairwise_map.mpr (List.Pairwise.imp (fun h => .inr ⟨rfl, h⟩) List.pairwise_lt_range')
  case rows =>
    refine List.Pairwise.imp (fun {y y'} hlt p hp q hq => .inl ?_) List.pairwise_lt_range'
    obtain ⟨_, -, rfl⟩ := List.mem_map.mp hp
    obtain ⟨_, -, rfl⟩ := List.mem_map.mp hq
    exact hlt

section

variable {t : Slot} {target : Color}

theorem mem_imagePixels {p : Pt} :
    p ∈ PixBox.pixels ⟨0, 0, t.width, t.height⟩ ↔ p.1 < t.width ∧ p.2 < t.height := by
  simp [mem_pixels]

theorem traceStart_eq_none (h : ∀ x y, x < t.width → y < t.height → t.color x y ≠ target) :
    traceStart t target = none := by
  refine List.find?_eq_none.mpr fun p hp => ?_
  obtain ⟨hx, hy⟩ := mem_imagePixels.mp hp
  simpa using h p.1 p.2 hx hy

/-- The start is the first pixel of the target colour in the scan. -/
theorem traceStart_eq_some {x0 y0 : Nat} (hx : x0 < t.width) (hy : y0 < t.height) (hcolor : t.color x0 y0 = target)
    (hfirst : ∀ x y, x < t.width → y < t.height → t.color x y = target → y0 < y ∨ (y0 = y ∧ x0 ≤ x)) :
    traceStart t target = some (x0, y0) := by
  have hmem := mem_imagePixels (p := (x0, y0)).mpr ⟨hx, hy⟩
  cases hfind : traceStart t target with
  | none => exact absurd hcolor (by simpa using List.find?_eq_none.mp hfind _ hmem)
  | some p =>
    obtain ⟨hp, before, after, hsplit, hmiss⟩ := List.find?_eq_some_iff_append.mp hfind
    have hpixel : p ∈ PixBox.pixels ⟨0, 0, t.width, t.height⟩ := List.mem_of_find?_eq_some hfind
    obtain ⟨hpx, hpy⟩ := mem_imagePixels.mp hpixel
    have horder := hfirst p.1 p.2 hpx hpy (by simpa using hp)
    have hsorted := pairwise_pixels ⟨0, 0, t.width, t.height⟩
    rw [hsplit] at hmem hsorted
    obtain hin | hin := List.mem_append.mp hmem
    · simpa [hcolor] using hmiss _ hin
    · obtain rfl | hin := List.mem_cons.mp hin
      · rfl
      · have hbefore := List.rel_of_pairwise_cons (List.pairwise_append.mp hsorted).2.1 hin
        simp only [ScanBefore] at hbefore
        omega

end

/-! ### Probes (R264) -/

section

variable {t : Slot} {target : Color} {start p q : Pt} {dir k : Nat}

theorem IsHit.dir_lt (h : IsHit t target p dir q) : dir < 8 := (List.getElem?_eq_some_iff.mp h.1).1

/-- The model's table of directions is that of R264. -/
theorem isHit_iff_traceProbe (hdir : dir < 8) : IsHit t target p dir q ↔ traceProbe t target p dir = some q := by
  have htable : ([(1, 0), (1, 1), (0, 1), (-1, 1), (-1, 0), (-1, -1), (0, -1), (1, -1)] : List (Int × Int))[dir]? =
      some (traceDir dir) := by
    interval_cases dir <;> rfl
  have hmove : movePt t.width t.height p (traceDir dir).1 (traceDir dir).2 = some q ↔
      traceDir dir = ((q.1 : Int) - p.1, (q.2 : Int) - p.2) ∧ q.1 < t.width ∧ q.2 < t.height := by
    rw [movePt_eq_some, Prod.ext_iff]
    simp only
    omega
  have hprobe : traceProbe t target p dir = some q ↔
      movePt t.width t.height p (traceDir dir).1 (traceDir dir).2 = some q ∧ t.color q.1 q.2 = target := by
    unfold traceProbe
    cases movePt t.width t.height p (traceDir dir).1 (traceDir dir).2 with
    | none => simp
    | some r =>
      simp only [Option.some.injEq]
      split_ifs with hcolor
      · simp only [Option.some.injEq, iff_self_and]
        rintro rfl
        exact hcolor
      · simp only [false_iff, not_and]
        rintro rfl
        exact hcolor
  simp only [IsHit, htable, Option.some.injEq, hprobe, hmove, and_assoc]

theorem not_isHit_of_traceProbe (hdir : dir < 8) (h : traceProbe t target p dir = none) :
    ∀ q, ¬ IsHit t target p dir q := fun q hq => by
  rw [isHit_iff_traceProbe hdir, h] at hq
  cases hq

theorem IsHit.unique {r : Pt} (hq : IsHit t target p dir q) (hr : IsHit t target p dir r) : q = r := by
  have hprobe_q := (isHit_iff_traceProbe hq.dir_lt).mp hq
  have hprobe_r := (isHit_iff_traceProbe hr.dir_lt).mp hr
  exact Option.some.inj (hprobe_q.symm.trans hprobe_r)

/-- Pixel `q` is one of the eight neighbours of `p`. -/
def Touches (p q : Pt) : Prop := q ≠ p ∧ p.1 ≤ q.1 + 1 ∧ q.1 ≤ p.1 + 1 ∧ p.2 ≤ q.2 + 1 ∧ q.2 ≤ p.2 + 1

/-- A step of the table leads to one of the eight neighbours. -/
theorem IsHit.touches (h : IsHit t target p dir q) : Touches q p := by
  have hdir := h.dir_lt
  obtain ⟨htable, -⟩ := h
  have hne : p ≠ q ↔ ¬ (p.1 = q.1 ∧ p.2 = q.2) := by rw [Ne, Prod.ext_iff]
  rw [Touches, hne]
  interval_cases dir <;> simp at htable <;> omega

end

/-! ### The walk (R266) -/

section

variable {t : Slot} {target : Color} {start cur : Pt} {dir miss moves : Nat} {ps : List Pt}

/-- Every point that a walk draws is a pixel of the target colour, next to another one that it has drawn or to the one
it stands at. -/
theorem Walk.drawn (h : Walk t target start cur dir miss moves ps) : ∀ p ∈ ps,
    (p.1 < t.width ∧ p.2 < t.height ∧ t.color p.1 p.2 = target) ∧ ∃ q ∈ cur :: ps, Touches p q := by
  have step : ∀ {cur dir q}, IsHit t target cur dir q → ∀ ps : List Pt,
      (q.1 < t.width ∧ q.2 < t.height ∧ t.color q.1 q.2 = target) ∧ ∃ r ∈ cur :: ps, Touches q r :=
    fun hit _ => ⟨hit.2, _, List.mem_cons_self, hit.touches⟩
  induction h with
  | move hit _ _ ih =>
    intro p hp
    obtain rfl | hp := List.mem_cons.mp hp
    · exact step hit _
    · obtain ⟨hpixel, q, hq, htouches⟩ := ih p hp
      exact ⟨hpixel, q, List.mem_cons_of_mem _ hq, htouches⟩
  | last hit _ =>
    intro p hp
    obtain rfl := List.mem_singleton.mp hp
    exact step hit _
  | miss _ _ _ ih => exact ih
  | exhausted _ _ => exact nofun

/-- A walk that has probed the directions before `dir` in vain draws the first hit from `dir` on. -/
theorem Walk.first_hit (h : Walk t target start cur dir miss moves ps) {k : Nat} {q : Pt} (hmiss : miss = dir)
    (hle : dir ≤ k) (hit : IsHit t target cur k q) (hnone : ∀ j r, dir ≤ j → j < k → ¬ IsHit t target cur j r) :
    q ∈ ps := by
  have hk := hit.dir_lt
  induction h with
  | move hit' _ _ _ =>
    obtain rfl | hlt := hle.eq_or_lt
    · exact hit.unique hit' ▸ List.mem_cons_self
    · exact absurd hit' (hnone _ _ le_rfl hlt)
  | last hit' _ =>
    obtain rfl | hlt := hle.eq_or_lt
    · exact hit.unique hit' ▸ List.mem_singleton_self _
    · exact absurd hit' (hnone _ _ le_rfl hlt)
  | @miss cur dir miss _ _ none _ _ ih =>
    obtain rfl | hlt := hle.eq_or_lt
    · exact absurd hit (none q)
    · have hnext : (dir + 1) % 8 = dir + 1 := Nat.mod_eq_of_lt (by omega)
      rw [hnext] at ih
      exact ih (by omega) hlt hit fun j r hj => hnone j r (by omega)
  | exhausted _ stop => omega

/-- A walk from a pixel without hits draws nothing. -/
theorem Walk.eq_nil (h : Walk t target start cur dir miss moves ps) (hnone : ∀ k q, ¬ IsHit t target cur k q) :
    ps = [] := by
  induction h with
  | move hit _ _ _ => exact absurd hit (hnone _ _)
  | last hit _ => exact absurd hit (hnone _ _)
  | miss _ _ _ ih => exact ih hnone
  | exhausted _ _ => rfl

/-- The loop, entered with probes enough for the moves and misses that are left, draws what the walk does. -/
theorem exists_walk_traceLoop {fuel : Nat} {st : TraceState} (hdir : st.dir < 8) (hmiss : st.miss < 9)
    (hmoves : st.moves < 8 * t.area) (hfuel : 9 * (8 * t.area - st.moves) ≤ fuel + st.miss) :
    ∃ ps, Walk t target start st.cur st.dir st.miss st.moves ps ∧
      (traceLoop t target start fuel st).drawn = ps.reverse ++ st.drawn := by
  induction fuel generalizing st with
  | zero => omega
  | succ fuel ih =>
    unfold traceLoop
    cases hprobe : traceProbe t target st.cur st.dir with
    | some q =>
      have hit := (isHit_iff_traceProbe hdir).mpr hprobe
      dsimp only
      split_ifs with hstop
      · exact ⟨[q], .last hit hstop, rfl⟩
      · have hon : q ≠ start ∧ st.moves + 1 < 8 * t.area := by simpa using hstop
        obtain ⟨ps, hwalk, hdrawn⟩ := ih (st := ⟨q, (st.dir + 6) % 8, 0, st.moves + 1, q :: st.drawn⟩)
          (Nat.mod_lt _ (by decide)) (by simp) hon.2 (by simp only; omega)
        exact ⟨q :: ps, .move hit hon hwalk, by simp [hdrawn]⟩
    | none =>
      have hnone := not_isHit_of_traceProbe hdir hprobe
      dsimp only
      split_ifs with hstop
      · exact ⟨[], .exhausted hnone hstop, rfl⟩
      · obtain ⟨ps, hwalk, hdrawn⟩ := ih (st := ⟨st.cur, (st.dir + 1) % 8, st.miss + 1, st.moves, st.drawn⟩)
          (Nat.mod_lt _ (by decide)) (by simp only; omega) hmoves (by simp only; omega)
        exact ⟨ps, .miss hnone hstop hwalk, hdrawn⟩

/-- The points a trace draws: its start and those of the walk from it. -/
theorem exists_walk_tracePoints (hstart : traceStart t target = some start) :
    ∃ ps, Walk t target start start 0 0 0 ps ∧ tracePoints t target = ps.reverse ++ [start] := by
  obtain ⟨hx, hy⟩ := mem_imagePixels.mp (List.mem_of_find?_eq_some hstart)
  have harea : 0 < t.area := Nat.mul_pos (Nat.zero_lt_of_lt hx) (Nat.zero_lt_of_lt hy)
  simp only [tracePoints, hstart]
  exact exists_walk_traceLoop (st := ⟨start, 0, 0, 0, [start]⟩) (by simp) (by simp) (by simp only; omega)
    (by simp only; omega)

end

/-- Settles O50: the start by `traceStart_eq_some`, everything else from the walk of `exists_walk_tracePoints`. -/
theorem tracePointsFollowTheTarget : Obligations.TracePointsFollowTheTarget := by
  intro t target
  refine ⟨fun hnone => by simp only [tracePoints, traceStart_eq_none hnone], ?_⟩
  intro x0 y0 hx hy hcolor hfirst start hit
  obtain ⟨ps, hwalk, hpoints⟩ := exists_walk_tracePoints (traceStart_eq_some hx hy hcolor hfirst)
  have hmem : ∀ p, p ∈ tracePoints t target ↔ p = start ∨ p ∈ ps := fun p => by simp [hpoints, start, or_comm]
  refine ⟨⟨ps, hwalk, hmem⟩, (hmem _).mpr (.inl rfl), fun p hp => ?drawn, fun k x y hk hnone => ?first,
    fun hnone => ?alone⟩
  case drawn =>
    obtain rfl | hp := (hmem p).mp hp
    · exact ⟨hx, hy, hcolor, fun hne => absurd rfl hne⟩
    · obtain ⟨⟨hpx, hpy, hpc⟩, q, hq, htouches⟩ := hwalk.drawn p hp
      exact ⟨hpx, hpy, hpc, fun _ => ⟨q, (hmem q).mpr (List.mem_cons.mp hq), htouches⟩⟩
  case first =>
    exact (hmem _).mpr (.inr (hwalk.first_hit rfl (Nat.zero_le k) hk fun j r _ hj => hnone j r.1 r.2 hj))
  case alone =>
    rw [hpoints, hwalk.eq_nil fun k q => hnone k q.1 q.2]
    rfl

end Sys2Proof.Machine

end

section

/-! The checks of the commands in their order (O13, O14, O15, O16; 60_exceptions.md R282, R283), what an error
completion leaves (O17), and that no step stops the machine (O4). -/

namespace Sys2Proof.Machine

-- As in Tests/Slice0: every thread that elaborates beside this one reserves a stack of its own.
set_option Elab.async false

/-! ### No step stops the machine (R288, R289) -/

theorem exists_exec_next (i : Instr) (s : State) : ∃ t, exec i s = .next t := by
  rcases exec_outcomes i s with ⟨_, h⟩ | ⟨_, _, h⟩ <;> exact ⟨_, h⟩

/-- Settles O4: of the four kinds of step only a command could refuse, and by `exists_exec_next` none does. -/
theorem everyStepHasANextState : Obligations.EveryStepHasANextState := by
  intro s
  rcases step_cases s with ⟨-, h⟩ | ⟨_, _, -, h⟩ | ⟨_, i, -, -, h⟩ | ⟨_, _, -, -, h⟩
  case inr.inr.inl => exact h ▸ exists_exec_next i s
  all_goals exact ⟨_, h⟩

/-! ### Error completions (R286, R290) -/

/-- A command that completes with an error has been rejected: by its checks, or by a unit of ADAPTHRESH that fails,
which has written nothing but the PROGRESS of its poll. -/
theorem eq_reject_of_err {i : Instr} {s t : State} (hs : s.err = .ok) (h : exec i s = .next t) (ht : t.err ≠ .ok) :
    ∃ p code, t = ({ s with progress := p } : State).reject i code := by
  rcases exec_outcomes i s with ⟨code, ho⟩ | ⟨b, hb, ho⟩ <;> cases ho.symm.trans h
  · exact ⟨s.progress, code, rfl⟩
  · rcases runBody_cases b s with ⟨-, hrun⟩ | ⟨q, -, -, hrun⟩ <;> rw [hrun] at ht ⊢
    · rcases ending_cases b s with ⟨j, hend, -, -, hfails⟩ | ⟨hend, -, -⟩ | ⟨hend, -, -⟩ <;> rw [hend] at ht ⊢
      · exact ⟨_, .noThreshold, by rw [State.reject, if_pos (hb.isThreshold_of_fails hfails)]; rfl⟩
      · exact absurd rfl ht
      · exact absurd rfl ht
    · exact absurd hs ht

/-- Settles O17: what a rejection leaves, by `eq_reject_of_err`. -/
theorem errorCompletionsChangeNothing : Obligations.ErrorCompletionsChangeNothing := by
  intro i s t hs h ht
  obtain ⟨p, code, rfl⟩ := eq_reject_of_err hs h ht
  unfold State.reject
  cases isThreshold i
  all_goals exact ⟨rfl, ⟨rfl, rfl, rfl, rfl, fun _ => rfl, rfl, rfl, rfl⟩, rfl, rfl, rfl, rfl⟩

/-! ### Slot fields that are refused -/

/-- A required source field that is accepted: a valid slot (R282 group 2). -/
def RequiredSourceOk (s : State) (f : SlotArg) : Prop := ∃ i : SlotNo, f = .slot i ∧ (s.slot i).valid .default = true

section

variable {s : State} {sa sb sc sd f : SlotArg} {a : SlotNo} {e : ErrCode}

theorem requiredSourceOk_of_source (h : s.source f = .ok a) : RequiredSourceOk s f := ⟨a, source_ok h⟩

theorem validSlot_error {n : Nat} (h : s.validSlot n = .error e) : e = .invalidBuffer := by
  unfold State.validSlot at h
  split at h
  · cases h; rfl
  · split_ifs at h; cases h; rfl

theorem source_error (h : s.source f = .error e) : e = .invalidBuffer := by
  cases f with
  | null => cases h; rfl
  | slot n => exact validSlot_error h

/-- A destination field that is not BADSLOT stands for a slot. -/
theorem exists_dest_of_not_bad (a : SlotNo) (h : ¬ IsBadSlot f) : ∃ d, dest a f = .ok d := by
  cases hd : dest a f with
  | error e => exact absurd (dest_eq_error.mp hd).1 h
  | ok d => exact ⟨d, rfl⟩

theorem not_bad_of_dest {d : SlotNo} (h : dest a f = .ok d) : ¬ IsBadSlot f := fun hbad => by
  cases h.symm.trans (dest_eq_error.mpr ⟨hbad, rfl⟩)

theorem eq_of_slot_eq {b : SlotNo} (h : SlotArg.slot a = .slot b) : a = b := Fin.ext (SlotArg.slot.inj h)

/-- A condition on the slot that a field names, where the field is known to name `a`. -/
theorem forall_named_iff {p : SlotNo → Prop} : (∀ b : SlotNo, SlotArg.slot a = .slot b → p b) ↔ p a :=
  ⟨fun h => h a rfl, fun h _ hb => eq_of_slot_eq hb ▸ h⟩

/-! ### The same-format commands (R138, R162) -/

variable {i : Instr} {params : Bool}

theorem laned_iff {t : Slot} : t.laned = true ↔ t.cls = .rgb24 ∨ t.cls = .gray8 := by simp [Slot.laned]

theorem sameFormat_of_not_fields (h : ¬ (RequiredSourceOk s sa ∧ ¬ IsBadSlot sb)) :
    s.sameFormat sa sb params = .error .invalidBuffer := by
  unfold State.sameFormat
  split
  · next ha => rw [source_error ha]
  · next ha =>
    split
    · next hd => rw [(dest_eq_error.mp hd).2]
    · next hd => exact absurd ⟨requiredSourceOk_of_source ha, not_bad_of_dest hd⟩ h

theorem sameFormat_of_not_laned (hv : (s.slot a).valid .default = true) (hsb : ¬ IsBadSlot sb)
    (hl : ¬ (s.slot a).laned = true) : s.sameFormat (.slot a) sb params = .error .unsupportedFormat := by
  obtain ⟨d, hd⟩ := exists_dest_of_not_bad a hsb
  simp only [State.sameFormat, source_of_valid hv, hd, if_neg hl]

theorem sameFormat_of_not_params (hv : (s.slot a).valid .default = true) (hsb : ¬ IsBadSlot sb)
    (hl : (s.slot a).laned = true) : s.sameFormat (.slot a) sb false = .error .invalidArgument := by
  obtain ⟨d, hd⟩ := exists_dest_of_not_bad a hsb
  simp only [State.sameFormat, source_of_valid hv, hd, if_pos hl]
  rfl

/-- A same-format command polls once a row or once a column (40_common.md R135). -/
theorem SameFormat.polled (hp : SameFormat sa sb i params) : RowPolled sa sb i ∨ ColumnPolled sa sb i := by
  cases hp with
  | filter k factor bias => exact .inl (.filter k factor bias)
  | erode k => exact .inl (.erode k)
  | dilate k => exact .inl (.dilate k)
  | edge k => exact .inl (.edge k)
  | contour => exact .inl .contour
  | unsharp radius amount threshold => exact .inl (.unsharp radius amount threshold)
  | median k => exact .inl (.median k)
  | gaussblur radius => exact .inr (.gaussblur radius)
  | selblur radius threshold => exact .inr (.selblur radius threshold)

theorem SameFormat.exec_of_error (hp : SameFormat sa sb i params) (h : s.sameFormat sa sb params = .error e) :
    exec i s = .next (s.complete e false) := by
  rcases hp.polled with hi | hi
  · obtain ⟨out, hexec⟩ := hi.exec_eq hp s
    exact (hexec s (sameKernel_refl i s)).trans (sameFormatCommand_error h ..)
  · obtain ⟨w, which, hexec⟩ := hi.exec_eq hp
    exact (hexec s).trans (sameFormatCommand_error h ..)

end

/-- Settles O13: each clause is one failing check of `State.sameFormat`, which all nine commands report alike. -/
theorem sameFormatChecksInOrder : Obligations.SameFormatChecksInOrder := by
  intro s sa sb i params hp source target format fails
  refine ⟨fun h => hp.exec_of_error (sameFormat_of_not_fields h), ?format, ?params⟩
  case format =>
    rintro ⟨⟨a, rfl, hv⟩, htarget⟩ hformat
    refine hp.exec_of_error (sameFormat_of_not_laned hv htarget fun hl => hformat ?_)
    exact forall_named_iff.mpr (laned_iff.mp hl)
  case params =>
    rintro ⟨⟨a, rfl, hv⟩, htarget⟩ hformat rfl
    exact hp.exec_of_error (sameFormat_of_not_params hv htarget (laned_iff.mpr (hformat a rfl)))

/-! ### FFT2 (43_frequency.md R200, R201, R203) -/

/-- FFT2's slot fields are accepted: its given sources are valid, no field is BADSLOT, and a source is given. -/
def Fft2Buffers (s : State) (sa sb sc sd : SlotArg) : Prop :=
  SourceOk s sa ∧ SourceOk s sb ∧ ¬ IsBadSlot sc ∧ ¬ IsBadSlot sd ∧ ¬ (sa = .null ∧ sb = .null)

/-- The failing one of two checks in a row, where the second has two parts. -/
theorem guards_eq_error {ε α : Type} {a b c : Bool} {e₁ e₂ e : ε} {p : α}
    (h : (if !a then Except.error e₁ else if !b then .error e₂ else if c then .ok p else .error e₂) = .error e) :
    a = false ∧ e = e₁ ∨ a = true ∧ e = e₂ := by
  cases a
  · exact .inl ⟨rfl, (Except.error.inj h).symm⟩
  · simp only [Bool.not_true, Bool.false_eq_true, if_false] at h
    split_ifs at h <;> exact .inr ⟨rfl, (Except.error.inj h).symm⟩

section

variable {s : State} {sa sb sc sd : SlotArg} {pow2 : Bool} {e : ErrCode}

theorem fftPlan_of_not_buffers (h : ¬ Fft2Buffers s sa sb sc sd) :
    s.fftPlan sa sb sc sd pow2 = .error .invalidBuffer := by
  unfold State.fftPlan
  split
  · next ha hb hc hd =>
    split
    · rfl
    · next hm =>
      have hsome : ¬ (sa = .null ∧ sb = .null) := by
        rintro ⟨rfl, rfl⟩
        cases ha
        cases hb
        cases hm
      exact absurd ⟨sourceOk_of_sourceOpt ha, sourceOk_of_sourceOpt hb, (destOpt_eq_ok.mp hc).1,
        (destOpt_eq_ok.mp hd).1, hsome⟩ h
  · rfl

/-- The code that FFT2's checks report past its slot fields: that of the sizes where they differ, else of the others. -/
theorem fftPlan_error_of_buffers (hbuffers : Fft2Buffers s sa sb sc sd)
    (h : s.fftPlan sa sb sc sd pow2 = .error e) :
    (e = .dimensionMismatch ∧ ¬ SizesAgree s (argSlot .default sa) (argSlot .default sb)) ∨
    (e = .invalidArgument ∧ SizesAgree s (argSlot .default sa) (argSlot .default sb)) := by
  obtain ⟨ha, hb, hc, hd, hsome⟩ := hbuffers
  unfold State.fftPlan at h
  rw [sourceOpt_of_ok ha, sourceOpt_of_ok hb, destOpt_eq_ok.mpr ⟨hc, rfl⟩, destOpt_eq_ok.mpr ⟨hd, rfl⟩] at h
  dsimp only at h
  split at h
  · next hnone =>
    obtain ⟨hna, hnb⟩ := Option.or_eq_none_iff.mp hnone
    exact absurd ⟨ha.argSlot_eq_none.mp hna, hb.argSlot_eq_none.mp hnb⟩ hsome
  · rcases guards_eq_error h with ⟨hsizes, rfl⟩ | ⟨hsizes, rfl⟩
    · refine .inl ⟨rfl, fun hagree => ?_⟩
      split at hsizes
      · next i j hi hj => simp [hagree i j hi hj] at hsizes
      · cases hsizes
    · refine .inr ⟨rfl, fun i j hi hj => ?_⟩
      simpa [hi, hj] using hsizes

theorem fftPlan_of_not_sizes (hbuffers : Fft2Buffers s sa sb sc sd)
    (hsizes : ¬ SizesAgree s (argSlot .default sa) (argSlot .default sb)) :
    s.fftPlan sa sb sc sd pow2 = .error .dimensionMismatch := by
  cases hp : s.fftPlan sa sb sc sd pow2 with
  | ok p =>
    obtain ⟨-, hagree, -⟩ := exists_fftPlan_iff.mp ⟨p, hp⟩
    exact absurd hagree hsizes
  | error e =>
    rcases fftPlan_error_of_buffers hbuffers hp with ⟨rfl, -⟩ | ⟨-, hagree⟩
    · rfl
    · exact absurd hagree hsizes

theorem fftPlan_of_not_params (hbuffers : Fft2Buffers s sa sb sc sd)
    (hsizes : SizesAgree s (argSlot .default sa) (argSlot .default sb))
    (hparams : ¬ ∃ p, s.fftPlan sa sb sc sd pow2 = .ok p) :
    s.fftPlan sa sb sc sd pow2 = .error .invalidArgument := by
  cases hp : s.fftPlan sa sb sc sd pow2 with
  | ok p => exact absurd ⟨p, hp⟩ hparams
  | error e =>
    rcases fftPlan_error_of_buffers hbuffers hp with ⟨-, hno⟩ | ⟨rfl, -⟩
    · exact absurd hsizes hno
    · rfl

theorem exec_fft2_of_error {inv mag : Bool} (h : s.fftPlan sa sb sc sd pow2 = .error e) :
    exec (.fft2 sa sb sc sd inv pow2 mag) s = .next (s.complete e false) := by
  simp only [exec, execFft2, h]
  rfl

end

/-- Settles O14: which plans are refused by `exists_fftPlan_iff`, and with which code by `fftPlan_of_not_buffers` and
`fftPlan_error_of_buffers`. -/
theorem fft2ChecksInOrder : Obligations.Fft2ChecksInOrder := by
  intro s sa sb sc sd inv pow2 mag good buffers sizes targets main fits fails
  have hsizes : sizes ↔ SizesAgree s (argSlot .default sa) (argSlot .default sb) := by
    simp only [sizes, SizesAgree, argSlot_eq_some]
  refine ⟨fun h => exec_fft2_of_error (fftPlan_of_not_buffers h),
    fun hbuffers h => exec_fft2_of_error (fftPlan_of_not_sizes hbuffers (mt hsizes.mpr h)),
    fun hbuffers h hparams => exec_fft2_of_error (fftPlan_of_not_params hbuffers (hsizes.mp h) fun hok => hparams ?_)⟩
  obtain ⟨-, -, hdiffer, hfits⟩ := exists_fftPlan_iff.mp hok
  simp only [destArg_eq_some, argSlot_eq_some] at hdiffer hfits
  exact ⟨hdiffer, hfits⟩

/-! ### The threshold commands (44_threshold.md R236, R238) -/

/-- A mask, if one is given, is a GRAY8 image of the size of the source (R138, R282 group 4). -/
def MaskMatches (s : State) (sa sb : SlotArg) : Prop :=
  ∀ a m : SlotNo, sa = .slot a → sb = .slot m →
    (s.slot m).cls = .gray8 ∧ (s.slot m).w = (s.slot a).w ∧ (s.slot m).h = (s.slot a).h

section

variable {s : State} {sa sb sc : SlotArg} {a : SlotNo} {m : Option SlotNo} {method : BitVec 3} {box : Option BoxArg}
  {boxSize bias balance : Word} {e : ErrCode}

theorem maskMatches_iff : MaskMatches s (.slot a) sb ↔
    ∀ m, argSlot .default sb = some m → maskFits (s.slot m) (s.slot a) = true := by
  simp only [argSlot_eq_some, maskFits_iff]
  refine ⟨fun h m => h a m rfl, fun h b m hb => ?_⟩
  obtain rfl := eq_of_slot_eq hb
  exact h m

theorem requireMask_of_not_fits {t : Slot} (h : ¬ ∀ i, m = some i → maskFits (s.slot i) t = true) :
    s.requireMask m t = .error .dimensionMismatch := by
  cases m with
  | none => exact absurd nofun h
  | some i =>
    have hi : ¬ maskFits (s.slot i) t = true := fun hfits => h fun j hj => Option.some.inj hj ▸ hfits
    exact if_neg hi

theorem optCheck_of_not_fields (h : ¬ (RequiredSourceOk s sa ∧ SourceOk s sb)) :
    s.optCheck sa sb method = .error .invalidBuffer := by
  unfold State.optCheck
  split
  · next ha hb => exact absurd ⟨requiredSourceOk_of_source ha, sourceOk_of_sourceOpt hb⟩ h
  · rfl

theorem optCheck_of_not_depth (hv : (s.slot a).valid .default = true) (hsb : SourceOk s sb)
    (hdepth : (s.slot a).depth ≠ 2#2) : s.optCheck (.slot a) sb method = .error .unsupportedFormat := by
  simp [State.optCheck, source_of_valid hv, sourceOpt_of_ok hsb, hdepth]

theorem optCheck_of_not_mask (hv : (s.slot a).valid .default = true) (hsb : SourceOk s sb)
    (hdepth : (s.slot a).depth = 2#2) (hmask : ¬ MaskMatches s (.slot a) sb) :
    s.optCheck (.slot a) sb method = .error .dimensionMismatch := by
  have hrequire := requireMask_of_not_fits (mt maskMatches_iff.mpr hmask)
  simp [State.optCheck, source_of_valid hv, sourceOpt_of_ok hsb, hdepth, hrequire]

theorem optCheck_of_not_method (hv : (s.slot a).valid .default = true) (hsb : SourceOk s sb)
    (hdepth : (s.slot a).depth = 2#2) (hmask : MaskMatches s (.slot a) sb) (hmethod : 4 < method.toNat) :
    s.optCheck (.slot a) sb method = .error .invalidArgument := by
  have hrequire := requireMask_of_fits (maskMatches_iff.mp hmask)
  simp [State.optCheck, source_of_valid hv, sourceOpt_of_ok hsb, hdepth, hrequire, hmethod]

theorem adaptCheck_of_not_fields (h : ¬ (RequiredSourceOk s sa ∧ SourceOk s sb) ∨ IsBadSlot sc) :
    s.adaptCheck sa sb sc method balance = .error .invalidBuffer := by
  unfold State.adaptCheck
  split
  · next ha hb =>
    split
    · next hd => rw [(dest_eq_error.mp hd).2]
    · next hd =>
      rcases h with h | h
      · exact absurd ⟨requiredSourceOk_of_source ha, sourceOk_of_sourceOpt hb⟩ h
      · exact absurd h (not_bad_of_dest hd)
  · rfl

theorem adaptCheck_of_not_mask (hv : (s.slot a).valid .default = true) (hsb : SourceOk s sb) (hsc : ¬ IsBadSlot sc)
    (hmask : ¬ MaskMatches s (.slot a) sb) :
    s.adaptCheck (.slot a) sb sc method balance = .error .dimensionMismatch := by
  obtain ⟨d, hd⟩ := exists_dest_of_not_bad a hsc
  have hrequire := requireMask_of_not_fits (mt maskMatches_iff.mpr hmask)
  simp [State.adaptCheck, source_of_valid hv, sourceOpt_of_ok hsb, hd, hrequire]

theorem adaptCheck_of_not_params (hv : (s.slot a).valid .default = true) (hsb : SourceOk s sb) (hsc : ¬ IsBadSlot sc)
    (hmask : MaskMatches s (.slot a) sb) (hparams : 4 < method.toNat ∨ F64.ofF32 balance = .nan) :
    s.adaptCheck (.slot a) sb sc method balance = .error .invalidArgument := by
  obtain ⟨d, hd⟩ := exists_dest_of_not_bad a hsc
  have hrequire := requireMask_of_fits (maskMatches_iff.mp hmask)
  have hfails : ¬ (method.toNat ≤ 4 ∧ (F64.ofF32 balance).isNaN = false) := by
    rintro ⟨hmethod, hnum⟩
    rcases hparams with h | h
    · omega
    · rw [h] at hnum; cases hnum
  simp only [State.adaptCheck, source_of_valid hv, sourceOpt_of_ok hsb, hd, hrequire, if_neg hfails]

theorem exec_optthresh_of_error (h : s.optCheck sa sb method = .error e) :
    exec (.optthresh sa sb method box) s = .next (s.failThreshold e) := by
  simp only [exec, execOptthresh, h]

theorem exec_adaptthresh_of_error (h : s.adaptCheck sa sb sc method balance = .error e) :
    exec (.adaptthresh sa sb sc method boxSize bias balance) s = .next (s.failThreshold e) := by
  simp only [exec, execAdaptthresh, h]

end

/-- Settles O15: each clause is one failing check of `State.optCheck` or `State.adaptCheck`. -/
theorem thresholdChecksInOrder : Obligations.ThresholdChecksInOrder := by
  intro s sa sb sc method box boxSize bias balance source aux mask depth failed opt adapt
  refine ⟨fun h => ⟨exec_optthresh_of_error (optCheck_of_not_fields h),
      exec_adaptthresh_of_error (adaptCheck_of_not_fields (.inl h))⟩,
    fun h => exec_adaptthresh_of_error (adaptCheck_of_not_fields (.inr h)), ?depth, ?mask, ?method, ?balance⟩
  case depth =>
    rintro ⟨⟨a, rfl, hv⟩, hsb⟩ hdepth
    exact exec_optthresh_of_error (optCheck_of_not_depth hv hsb fun h => hdepth (forall_named_iff.mpr h))
  case mask =>
    rintro ⟨⟨a, rfl, hv⟩, hsb⟩ hmask
    exact ⟨fun hdepth => exec_optthresh_of_error (optCheck_of_not_mask hv hsb (hdepth a rfl) hmask),
      fun hsc => exec_adaptthresh_of_error (adaptCheck_of_not_mask hv hsb hsc hmask)⟩
  case method =>
    rintro ⟨⟨a, rfl, hv⟩, hsb⟩ hmask hmethod
    exact ⟨fun hdepth => exec_optthresh_of_error (optCheck_of_not_method hv hsb (hdepth a rfl) hmask hmethod),
      fun hsc => exec_adaptthresh_of_error (adaptCheck_of_not_params hv hsb hsc hmask (.inl hmethod))⟩
  case balance =>
    rintro ⟨⟨a, rfl, hv⟩, hsb⟩ hmask hbalance hsc
    exact exec_adaptthresh_of_error (adaptCheck_of_not_params hv hsb hsc hmask (.inr hbalance))

/-! ### THRESHMASK, TRACE and FLOODFILL -/

section

variable {s : State} {sa sb sc : SlotArg} {a m : SlotNo} {index : Byte} {e : ErrCode}

theorem maskCheck_of_not_fields (h : ¬ (RequiredSourceOk s sa ∧ RequiredSourceOk s sb) ∨ IsBadSlot sc) :
    s.maskCheck sa sb sc = .error .invalidBuffer := by
  unfold State.maskCheck
  split
  · next ha hb =>
    split
    · next hd => rw [(dest_eq_error.mp hd).2]
    · next hd =>
      rcases h with h | h
      · exact absurd ⟨requiredSourceOk_of_source ha, requiredSourceOk_of_source hb⟩ h
      · exact absurd h (not_bad_of_dest hd)
  · rfl

theorem maskCheck_of_not_mask (hv : (s.slot a).valid .default = true) (hm : (s.slot m).valid .default = true)
    (hsc : ¬ IsBadSlot sc) (hmask : ¬ MaskMatches s (.slot a) (.slot m)) :
    s.maskCheck (.slot a) (.slot m) sc = .error .dimensionMismatch := by
  obtain ⟨d, hd⟩ := exists_dest_of_not_bad a hsc
  have hfits : ¬ maskFits (s.slot m) (s.slot a) = true := by
    rw [maskMatches_iff] at hmask
    simpa [argSlot] using hmask
  simp only [State.maskCheck, source_of_valid hv, source_of_valid hm, hd, if_neg hfits]

theorem traceCheck_of_not_fields (h : ¬ RequiredSourceOk s sa ∨ IsBadSlot sb) :
    s.traceCheck sa sb = .error .invalidBuffer := by
  unfold State.traceCheck
  split
  · next ha => rw [source_error ha]
  · next ha =>
    split
    · next hd => rw [(dest_eq_error.mp hd).2]
    · next hd =>
      rcases h with h | h
      · exact absurd (requiredSourceOk_of_source ha) h
      · exact absurd h (not_bad_of_dest hd)

theorem fillCheck_of_not_source (h : ¬ RequiredSourceOk s sa) : s.fillCheck sa index = .error .invalidBuffer := by
  unfold State.fillCheck
  split
  · next ha => rw [source_error ha]
  · next ha => exact absurd (requiredSourceOk_of_source ha) h

/-- A valid image that is not RGB24 is indexed (10_state.md R41, R45). -/
theorem indexed_of_valid {t : Slot} (hv : t.valid .default = true) (h : t.depth ≠ 3#2) : t.indexed = true := by
  have hdepth : t.depth ≠ 0#2 := by
    intro h0
    simp [Slot.valid, h0] at hv
  simp only [Slot.indexed, Bool.or_eq_true, beq_iff_eq]
  bv_omega

theorem fillCheck_of_not_index (hv : (s.slot a).valid .default = true) (hdepth : (s.slot a).depth ≠ 3#2)
    (hindex : (s.slot a).paln.toNat ≤ index.toNat) : s.fillCheck (.slot a) index = .error .invalidArgument := by
  simp [State.fillCheck, source_of_valid hv, indexed_of_valid hv hdepth, hindex]

theorem exec_threshmask_of_error (h : s.maskCheck sa sb sc = .error e) :
    exec (.threshmask sa sb sc) s = .next (s.complete e false) := by
  simp only [exec, execThreshmask, h]
  rfl

theorem exec_trace_of_error {target traceColor : Color} (h : s.traceCheck sa sb = .error e) :
    exec (.trace sa sb target traceColor) s = .next (s.complete e false) := by
  simp only [exec, execTrace, h]
  rfl

theorem exec_floodfill_of_error {track : Bool} {x0 y0 : BitVec 16} {color : Color} {tolerance opacity level : Byte}
    (h : s.fillCheck sa index = .error e) :
    exec (.floodfill sa track x0 y0 color index tolerance opacity level) s = .next (s.complete e false) := by
  simp only [exec, execFloodfill, h]
  rfl

end

/-- Settles O16: each clause is one failing check of `State.maskCheck`, `State.traceCheck` or `State.fillCheck`. -/
theorem regionAndMaskChecksInOrder : Obligations.RegionAndMaskChecksInOrder := by
  intro s sa sb sc good
  refine ⟨fun h => exec_threshmask_of_error (maskCheck_of_not_fields h), ?mask,
    fun _ _ h => exec_trace_of_error (traceCheck_of_not_fields h), fun _ _ _ _ _ _ _ _ =>
      ⟨fun h => exec_floodfill_of_error (fillCheck_of_not_source h), ?index⟩⟩
  case mask =>
    rintro ⟨a, rfl, hv⟩ ⟨m, rfl, hm⟩ hsc hmask
    exact exec_threshmask_of_error (maskCheck_of_not_mask hv hm hsc hmask)
  case index =>
    rintro a rfl hv hdepth hindex
    exact exec_floodfill_of_error (fillCheck_of_not_index hv hdepth hindex)

end Sys2Proof.Machine

end

section

/-! Reset and hazards (70_reset_and_hazards.md): a machine without a valid slot (O23), a machine whose host does nothing
(O24), and the soft reset (O59). -/

namespace Sys2Proof.Machine

/-! ### Without a valid slot (R312) -/

/-- No slot holds a valid image, as after reset. -/
def NoValidSlot (s : State) : Prop := ∀ j : SlotNo, (s.slot j).valid .default = false

section

variable {s : State}

theorem NoValidSlot.not_requiredSourceOk (h : NoValidSlot s) (f : SlotArg) : ¬ RequiredSourceOk s f := by
  rintro ⟨j, -, hv⟩
  rw [h j] at hv
  cases hv

/-- Only NULL is then accepted as an optional source. -/
theorem NoValidSlot.eq_null (h : NoValidSlot s) {f : SlotArg} (hf : SourceOk s f) : f = .null :=
  hf.resolve_right (h.not_requiredSourceOk f)

/-- FFT2 needs one source at least (43_frequency.md R200). -/
theorem NoValidSlot.not_fft2Buffers (h : NoValidSlot s) (sa sb sc sd : SlotArg) : ¬ Fft2Buffers s sa sb sc sd := by
  rintro ⟨ha, hb, -, -, hsome⟩
  exact hsome ⟨h.eq_null ha, h.eq_null hb⟩

theorem NoValidSlot.exec_sameFormat (h : NoValidSlot s) {sa sb : SlotArg} {i : Instr} {params : Bool}
    (hi : SameFormat sa sb i params) : exec i s = .next (s.complete .invalidBuffer false) :=
  hi.exec_of_error (sameFormat_of_not_fields fun hf => h.not_requiredSourceOk sa hf.1)

/-- Without a valid slot each command's first check fails: it has a source that it requires, FFT2 one of two. -/
theorem NoValidSlot.exec_eq_reject (h : NoValidSlot s) (i : Instr) : exec i s = .next (s.reject i .invalidBuffer) := by
  have hsource := h.not_requiredSourceOk
  cases i with
  | filter sa sb k factor bias => exact h.exec_sameFormat (.filter k factor bias)
  | erode sa sb k => exact h.exec_sameFormat (.erode k)
  | dilate sa sb k => exact h.exec_sameFormat (.dilate k)
  | edge sa sb k => exact h.exec_sameFormat (.edge k)
  | contour sa sb => exact h.exec_sameFormat .contour
  | gaussblur sa sb radius => exact h.exec_sameFormat (.gaussblur radius)
  | unsharp sa sb radius amount threshold => exact h.exec_sameFormat (.unsharp radius amount threshold)
  | selblur sa sb radius threshold => exact h.exec_sameFormat (.selblur radius threshold)
  | median sa sb k => exact h.exec_sameFormat (.median k)
  | fft2 sa sb sc sd => exact exec_fft2_of_error (fftPlan_of_not_buffers (h.not_fft2Buffers sa sb sc sd))
  | optthresh sa => exact exec_optthresh_of_error (optCheck_of_not_fields fun hf => hsource sa hf.1)
  | adaptthresh sa => exact exec_adaptthresh_of_error (adaptCheck_of_not_fields (.inl fun hf => hsource sa hf.1))
  | threshmask sa => exact exec_threshmask_of_error (maskCheck_of_not_fields (.inl fun hf => hsource sa hf.1))
  | floodfill sa => exact exec_floodfill_of_error (fillCheck_of_not_source (hsource sa))
  | trace sa => exact exec_trace_of_error (traceCheck_of_not_fields (.inl (hsource sa)))

end

/-- The outcome that a rejection records (60_exceptions.md R281). -/
theorem reject_outcome (s : State) (i : Instr) (code : ErrCode) :
    (s.reject i code).err = code ∧ (s.reject i code).done = true ∧ (s.reject i code).busy = false := by
  unfold State.reject
  split <;> exact ⟨rfl, rfl, rfl⟩

/-- Settles O23: every command is rejected, and a rejection writes no slot. -/
theorem noCommandSucceedsWithoutASlot : Obligations.NoCommandSucceedsWithoutASlot := by
  intro i s h
  obtain ⟨herr, hdone, hbusy⟩ := reject_outcome s i .invalidBuffer
  exact ⟨_, NoValidSlot.exec_eq_reject h i, herr, hdone, hbusy, slots_reject s i .invalidBuffer⟩

/-! ### Without the host (R322) -/

theorem Concludes.done {i : Instr} {s t : State} (h : Concludes i s t) : t.done = true := by
  obtain ⟨_, _, _, _, _, _, _, rfl⟩ := h
  rfl

/-- A command pauses only for an access of the host. -/
theorem not_pauses_of_no_host {b : Body .default} {s t : State} (hh : s.host = []) : ¬ Pauses b s t := by
  rintro ⟨e, rest, hhost, -⟩
  rw [hh] at hhost
  cases hhost

/-- Where the host does nothing further, a command's turn is its last. -/
theorem concludes_of_no_host {i : Instr} {s t : State} (hh : s.host = []) (h : exec i s = .next t) :
    Concludes i s t := by
  rcases exec_cases h with hc | ⟨b, -, hp⟩
  · exact hc
  · exact absurd hp (not_pauses_of_no_host hh)

/-- Settles O24: the step is the engine's; a command concludes, and a block that is no command completes at once. -/
theorem commandsCompleteWithoutTheHost : Obligations.CommandsCompleteWithoutTheHost := by
  intro s hb hh
  obtain ⟨j, hj⟩ := Option.isSome_iff_exists.mp hb
  have hw : ∀ e ∈ s.host.head?, 0 < e.wait := by simp [hh]
  cases hd : decode j.cmd with
  | ok i =>
    obtain ⟨t, ht⟩ := exists_exec_next i s
    have hc := concludes_of_no_host hh ht
    exact ⟨t, (step_engine hj hd hw).trans ht, hc.busy, hc.done⟩
  | error e =>
    have hc := (illegalCommand_completed s j.cmd).1
    exact ⟨_, step_illegal hj hw hd, hc.idle, hc.done⟩

/-! ### The abort of a command (R314) -/

theorem unspecSlot_unknown (draw : Nat) : (unspecSlot draw).unknown := ⟨rfl, rfl, rfl, rfl, draw, rfl⟩

theorem slot_scramble_same (s : State) (i : SlotNo) : (s.scramble i).slot i = unspecSlot s.draws :=
  State.slot_withSlot_same s i _

theorem slot_scramble_other (s : State) {i d : SlotNo} (h : d ≠ i) : (s.scramble i).slot d = s.slot d :=
  State.slot_withSlot_other s h _

theorem slot_foldl_scramble_of_not_mem {l : List SlotNo} {d : SlotNo} (hd : d ∉ l) (s : State) :
    (l.foldl State.scramble s).slot d = s.slot d := by
  induction l generalizing s with
  | nil => rfl
  | cons i l ih =>
    obtain ⟨hi, hl⟩ := not_or.mp (mt List.mem_cons.mpr hd)
    exact (ih hl (s.scramble i)).trans (slot_scramble_other s hi)

theorem slot_foldl_scramble_unknown {l : List SlotNo} {d : SlotNo} (hd : d ∈ l) (s : State) :
    ((l.foldl State.scramble s).slot d).unknown := by
  induction l generalizing s with
  | nil => cases hd
  | cons i l ih =>
    by_cases hl : d ∈ l
    · exact ih hl (s.scramble i)
    · obtain rfl : d = i := (List.mem_cons.mp hd).resolve_right hl
      rw [List.foldl_cons, slot_foldl_scramble_of_not_mem hl, slot_scramble_same]
      exact unspecSlot_unknown s.draws

theorem coef_foldl_scramble (l : List SlotNo) (s : State) (n : Nat) :
    (l.foldl State.scramble s).coef n = s.coef n := by
  induction l generalizing s with
  | nil => rfl
  | cons i l ih => exact ih (s.scramble i)

theorem abort_of_idle {s : State} (h : s.job = none) : s.abort = s := by
  simp only [State.abort, h]

theorem abort_of_illegal {s : State} {j : Job} {e : DecodeError} (hj : s.job = some j) (hd : decode j.cmd = .error e) :
    s.abort = s := by
  simp only [State.abort, hj, hd]

theorem abort_of_command {s : State} {j : Job} {i : Instr} (hj : s.job = some j) (hd : decode j.cmd = .ok i) :
    s.abort = (mayWrite .default i).foldl State.scramble s := by
  simp only [State.abort, hj, hd]

theorem coef_abort (s : State) (n : Nat) : s.abort.coef n = s.coef n := by
  cases hj : s.job with
  | none => rw [abort_of_idle hj]
  | some j =>
    cases hd : decode j.cmd with
    | error e => rw [abort_of_illegal hj hd]
    | ok i => rw [abort_of_command hj hd, coef_foldl_scramble]

/-! ### The soft reset (R313) -/

/-- A write of CTRL with SRESET is the soft reset, whatever else the word holds. -/
theorem hostWrite_softReset (s : State) {v : Word} (hv : v.getLsbD 31 = true) :
    hostWrite s 0x004#32 .four v = s.softReset := by
  rw [hostWrite_ctrl, writeCtrl, if_pos hv]

/-- Settles O59: the soft reset writes every register, and the slots and KRAM are those that the abort leaves. -/
theorem softResetClearsAndKeeps : Obligations.SoftResetClearsAndKeeps := by
  intro s v hv
  rw [hostWrite_softReset s hv]
  refine ⟨ctrlWord_eq_zero rfl rfl, statusWord_eq_zero rfl rfl rfl rfl rfl, rfl, rfl, rfl, zeroBlock_word, rfl,
    coef_abort s, fun hj => ?idle, fun j e hj hd => ?illegal, fun j i hj hd d => ?command⟩
  case idle => rw [State.softReset_slots, abort_of_idle hj]
  case illegal => rw [State.softReset_slots, abort_of_illegal hj hd]
  case command =>
    have hslot : s.softReset.slot d = ((mayWrite .default i).foldl State.scramble s).slot d := by
      rw [← abort_of_command hj hd]; rfl
    rw [hslot]
    exact ⟨fun hw => slot_foldl_scramble_of_not_mem (mt mem_mayWrite.mp hw) s,
      fun hw => slot_foldl_scramble_unknown (mem_mayWrite.mpr hw) s⟩

end Sys2Proof.Machine

end
